-- ==== Sys2Proof/Word.lean ====
section
/-! DEFINITION. The bit-vector types of the PPLE (00_scope.md R14): 32-bit words, bytes, 24-bit colours, 4-bit indices. -/

namespace Sys2Proof

/-- A command word or a host register: 32 bits (R14, R55, R46). -/
abbrev Word := BitVec 32

/-- One byte of the FILE memory or of the output (R39, R43). -/
abbrev Byte := BitVec 8

/-- A palette index as the LUT and the IDX memory hold it: 4 bits (R14). -/
abbrev Nibble := BitVec 4

/-- A colour `RRGGBB`: 24 bits (R14, R15). -/
abbrev Rgb := BitVec 24

end Sys2Proof
end

