-- ==== Sys2Proof/Syntax.lean ====
section
/-! DEFINITION. The syntax of the PPLE's commands: the modes, the formats and one constructor per row of spec/opcode_table.json. -/

namespace Sys2Proof

/-- The eight output modes, in the order of their numbers 0 to 7 (10_state.md R25). -/
inductive Mode where
  | screen0
  | screen1
  | tile2lc
  | screen3
  | screen5
  | screen6
  | sprite1
  | spritelc
  deriving DecidableEq, Repr

/-- The output format: 0 = ASM, 1 = SIF (10_state.md R26). -/
inductive Format where
  | asm
  | sif
  deriving DecidableEq, Repr

/-- The commands (30_encoding.md R59), with `illegal` for the table's ILLEGAL row: the words of R61. -/
inductive Instr where
  /-- NOP with its ignored 28-bit hint (R65). -/
  | nop (hint : BitVec 28)
  /-- CFG with the format and the mode (R66). -/
  | cfg (fmt : Format) (mode : Mode)
  /-- LUT_WR: the decoded colour length, the colour and the index word `w1` (R69). -/
  | lutWr (len : BitVec 4) (rgb : Rgb) (w1 : Word)
  /-- LUT_DEF (R70). -/
  | lutDef
  /-- FILE_WR with its byte (R71). -/
  | fileWr (byte : Byte)
  /-- HDR (R73). -/
  | hdr
  /-- CLASSIFY (R78). -/
  | classify
  /-- ENCODE (R79). -/
  | encode
  /-- A word outside the opcode map, kept whole for FAULT_INFO (R61, R94). -/
  | illegal (w : Word)
  deriving DecidableEq, Repr

end Sys2Proof
end

