-- ==== Sys2Proof/WellFormed.lean ====
section
/-! DEFINITION. Which terms of `Instr` are commands: the modes and formats are legal by their types, so the one check is that an `illegal` word really is outside the opcode map (30_encoding.md R61). -/

namespace Sys2Proof

/-- R61's list of illegal encodings: OPC 8..15; CFG with a nonzero bit in 27:5 or with MODE 8..15; LUT_DEF, HDR, CLASSIFY,
ENCODE with a nonzero bit in 27:0; FILE_WR with a nonzero bit in 27:8. -/
def isIllegalWord (w : Word) : Bool :=
  let opc := (w.extractLsb' 28 4).toNat
  8 ≤ opc
    || (opc == 1 && (w.extractLsb' 5 23 != 0 || 8 ≤ (w.extractLsb' 0 4).toNat))
    || ([3, 5, 6, 7].contains opc && w.extractLsb' 0 28 != 0)
    || (opc == 4 && w.extractLsb' 8 20 != 0)

/-- A well-formed command: every term but an `illegal` whose word the opcode map does have. -/
def Instr.wf : Instr → Bool
  | .nop _ => true
  | .cfg _ _ => true
  | .lutWr _ _ _ => true
  | .lutDef => true
  | .fileWr _ => true
  | .hdr => true
  | .classify => true
  | .encode => true
  | .illegal w => isIllegalWord w

end Sys2Proof
end

