-- ==== Sys2Proof/Decode.lean ====
section
/-! DEFINITION. The decoder of complete commands, total on every list of words (30_encoding.md R55 to R61), and the encoder, from the same formats (R57, R58). -/

namespace Sys2Proof

/-- `OPC = w[31:28]` (R55). -/
def opcodeOf (w : Word) : BitVec 4 := w.extractLsb' 28 4

/-- The mode a 4-bit MODE field names; 8..15 are reserved (10_state.md R25). -/
def Mode.ofBits (b : BitVec 4) : Option Mode :=
  match b.toNat with
  | 0 => some .screen0
  | 1 => some .screen1
  | 2 => some .tile2lc
  | 3 => some .screen3
  | 4 => some .screen5
  | 5 => some .screen6
  | 6 => some .sprite1
  | 7 => some .spritelc
  | _ => none

/-- The number of a mode, 0..7 (10_state.md R25). -/
def Mode.bits : Mode → BitVec 4
  | .screen0 => 0
  | .screen1 => 1
  | .tile2lc => 2
  | .screen3 => 3
  | .screen5 => 4
  | .screen6 => 5
  | .sprite1 => 6
  | .spritelc => 7

/-- `FMT = w[4]`: 0 ASM, 1 SIF (R58). -/
def Format.ofBit (b : BitVec 1) : Format := if b = 0 then .asm else .sif

/-- The FMT bit of a format (R58). -/
def Format.bit : Format → BitVec 1
  | .asm => 0
  | .sif => 1

/-- A LUT_WR's operands: `LEN = w[27:24]`, `RGB = w[23:0]`, and the second word whole (R57 format L, R58). -/
def lutWrOf (w w1 : Word) : Instr := .lutWr (w.extractLsb' 24 4) (w.extractLsb' 0 24) w1

/-- A complete command with first word `w`, and second word `w1` if it is a LUT_WR, in the order of R60. -/
def decodeCommand (w w1 : Word) : Instr :=
  match (opcodeOf w).toNat with
  | 0 => .nop (w.extractLsb' 0 28)
  | 1 =>
    if w.extractLsb' 5 23 ≠ 0 then .illegal w
    else
      match Mode.ofBits (w.extractLsb' 0 4) with
      | some m => .cfg (Format.ofBit (w.extractLsb' 4 1)) m
      | none => .illegal w
  | 2 => lutWrOf w w1
  | 3 => if w.extractLsb' 0 28 ≠ 0 then .illegal w else .lutDef
  | 4 => if w.extractLsb' 8 20 ≠ 0 then .illegal w else .fileWr (w.extractLsb' 0 8)
  | 5 => if w.extractLsb' 0 28 ≠ 0 then .illegal w else .hdr
  | 6 => if w.extractLsb' 0 28 ≠ 0 then .illegal w else .classify
  | 7 => if w.extractLsb' 0 28 ≠ 0 then .illegal w else .encode
  | _ => .illegal w

/-- Why a list of words holds no complete command. Every complete command decodes (R61: a word outside the map decodes to
`Instr.illegal`). -/
inductive DecodeError where
  /-- There is no word. -/
  | noWord
  /-- The first word is a LUT_WR's and its second word is missing (R56). -/
  | needsOperand
  deriving DecidableEq, Repr

/-- The first command of a list of words and the words after it. The length is decided by OPC alone: two words for OPC 2,
one for every other (R56). -/
def decode : List Word → Except DecodeError (Instr × List Word)
  | [] => .error .noWord
  | w :: rest =>
    if opcodeOf w = 2 then
      match rest with
      | [] => .error .needsOperand
      | w1 :: rest' => .ok (decodeCommand w w1, rest')
    else .ok (decodeCommand w 0, rest)

/-- The first word of a command (formats of R57; R63's words). It is the word FAULT_INFO[0] of a SequenceError or an
IllegalCommand holds (60_exceptions.md R94). -/
def Instr.firstWord : Instr → Word
  | .nop hint => (0#4 ++ hint : BitVec (4 + 28))
  | .cfg fmt mode => (1#4 ++ 0#23 ++ fmt.bit ++ mode.bits : BitVec (4 + 23 + 1 + 4))
  | .lutWr len rgb _ => (2#4 ++ len ++ rgb : BitVec (4 + 4 + 24))
  | .lutDef => 0x30000000
  | .fileWr b => (4#4 ++ 0#20 ++ b : BitVec (4 + 20 + 8))
  | .hdr => 0x50000000
  | .classify => 0x60000000
  | .encode => 0x70000000
  | .illegal w => w

/-- The words of a command (R56, R57): one word, and for LUT_WR the index word after it. -/
def encode (i : Instr) : List Word :=
  match i with
  | .lutWr _ _ w1 => [i.firstWord, w1]
  | _ => [i.firstWord]

/-- One row of R59's match and mask list: `w` selects the row when `w &&& mask = pattern`. -/
structure OpcodeRow where
  mnemonic : String
  pattern : Word
  mask : Word
  deriving DecidableEq, Repr

/-- R59's match and mask values of the eight commands. -/
def opcodeRows : List OpcodeRow :=
  [ ⟨"NOP", 0x00000000, 0xF0000000⟩,
    ⟨"CFG", 0x10000000, 0xFFFFFFE0⟩,
    ⟨"LUT_WR", 0x20000000, 0xF0000000⟩,
    ⟨"LUT_DEF", 0x30000000, 0xFFFFFFFF⟩,
    ⟨"FILE_WR", 0x40000000, 0xFFFFFF00⟩,
    ⟨"HDR", 0x50000000, 0xFFFFFFFF⟩,
    ⟨"CLASSIFY", 0x60000000, 0xFFFFFFFF⟩,
    ⟨"ENCODE", 0x70000000, 0xFFFFFFFF⟩ ]

/-- The mnemonic of a command, as the opcode table has it. -/
def Instr.mnemonic : Instr → String
  | .nop _ => "NOP"
  | .cfg _ _ => "CFG"
  | .lutWr _ _ _ => "LUT_WR"
  | .lutDef => "LUT_DEF"
  | .fileWr _ => "FILE_WR"
  | .hdr => "HDR"
  | .classify => "CLASSIFY"
  | .encode => "ENCODE"
  | .illegal _ => "ILLEGAL"

/-- The two 32-bit words of an instruction whose bits are `w`, numbered as the opcode table numbers them: the first word is
bits 31..0, the second bits 63..32, and every bit from `nbits` up is 0. -/
def tableWords (nbits w : Nat) : Word × Word :=
  let v := w % 2 ^ nbits
  (BitVec.ofNat 32 v, BitVec.ofNat 32 (v / 2 ^ 32))

/-- The command the decoder reads from the words `tableWords` lays out. -/
def decodeTableWord (nbits w : Nat) : Option Instr :=
  match decode [(tableWords nbits w).1, (tableWords nbits w).2] with
  | .ok (i, _) => some i
  | .error _ => none

end Sys2Proof
end

