-- ==== Sys2Proof/Config.lean ====
section
/-! DEFINITION. The parameters of a PPLE instance (00_scope.md R7 to R13, 10_state.md R21), as plain data, and what a memory cell that nothing has written reads as. -/

namespace Sys2Proof

/-- One conversion-table entry: a 24-bit colour and a 4-bit index (10_state.md R32). -/
structure LutEntry where
  rgb : Rgb
  idx : Nibble
  deriving DecidableEq, Repr

/-- The parameters R21 lists, fixed for a model instance. They stand in `State.params`, which no step changes, so that a
statement about every state is a statement about every instance (log entry 1, DESIGN CHOICE). -/
structure Params where
  /-- `LUT_DEPTH` (R7). The sizes are 32-bit because each bounds a 32-bit length register (log entry 3, DEDUCED). -/
  lutDepth : Word
  /-- `FILE_MAX` (R8). -/
  fileMax : Word
  /-- `IDX_MAX` (R8). -/
  idxMax : Word
  /-- `OUT_MAX` (R8). -/
  outMax : Word
  /-- `DEFAULT_TABLE[0..5]` (R9). -/
  defaultTables : Vector (List LutEntry) 6
  /-- `DEFAULT_SELECT`, by mode number (R11). -/
  defaultSelect : Vector (Fin 6) 8
  /-- `SPRITELC_POST` (R13): `none` is the spec's default; `some graph` is a replacement function, given by its graph: the
  32 line colours and the bytes they give, where a list of line colours that the graph does not hold answers `Refuse`
  (log entry 4, DESIGN CHOICE). -/
  spritePost : Option (List (List Nibble × List Byte))
  deriving DecidableEq, Repr

/-- The parameters of the state after reset: the sizes every vector of 95_test_vectors.md takes unless it says otherwise,
the least default tables R10 allows, and the spec's default SPRITELC_POST (log entry 2, DESIGN CHOICE, unsafe: no
statement rests on them). -/
def Config.resetParams : Params where
  lutDepth := 64
  fileMax := 4096
  idxMax := 1024
  outMax := 512
  defaultTables := Vector.replicate 6 [⟨0xFFFFFF, 1⟩]
  defaultSelect := Vector.replicate 8 0
  spritePost := none

/-- What a FILE byte that nothing has written reads as (log entry 8, DESIGN CHOICE; R38: unobservable). -/
def Config.unlistedByte : Byte := 0

/-- What an IDX entry that nothing has written reads as (log entry 8, DESIGN CHOICE; R38: unobservable). -/
def Config.unlistedIndex : Nibble := 0

/-- What a LUT entry that nothing has written reads as (log entry 8, DESIGN CHOICE; R38: unobservable). -/
def Config.unlistedEntry : LutEntry := ⟨0, 0⟩

end Sys2Proof
end

