-- ==== Sys2Proof/Machine/State.lean ====
section
/-! DEFINITION. The state of the PPLE as plain data (10_state.md, 20_memory.md), its reset value (R38), and the named ways a step can stop. -/

namespace Sys2Proof.Machine

/-- The values PHASE takes; 6 is never taken (10_state.md R28). -/
inductive Phase where
  | idle
  | config
  | lutDef
  | hdrOk
  | classified
  | done
  | fault
  deriving DecidableEq, Repr

/-- The fault codes 0..13 of 60_exceptions.md R94; 14..255 are never recorded. -/
inductive FaultCode where
  | none
  | invalidPaletteEntry
  | invalidPaletteIndex
  | invalidDimensions
  | unmappedColor
  | tooManyColorsPerLine
  | multipleSpriteColors
  | multipleColorsPerLine
  | illegalCommand
  | sequenceError
  | capacityExceeded
  | truncatedHeader
  | outOfRange
  | layoutOpen
  deriving DecidableEq, Repr

/-- FAULT_INFO[0..3] (10_state.md R31). -/
structure FaultInfo where
  fi0 : Word
  fi1 : Word
  fi2 : Word
  fi3 : Word
  deriving DecidableEq, Repr

/-- The labelled blocks of the output: `<label>:`, `<label>_colors:`, `<label>_color:` (20_memory.md R43). -/
inductive OutSection where
  | main
  | colors
  | color
  deriving DecidableEq, Repr

/-- One entry of the OUT memory (20_memory.md R43). Kind 3 and the unused values of ROWBREAK and SECTION, which R43 says are
never produced, have no term. -/
inductive Token where
  | data (b : Byte)
  | rowBreak
  | sect (k : OutSection)
  deriving DecidableEq, Repr

/-- The FILE, IDX, OUT and LUT spaces (20_memory.md R39), each a list of (address, cell) pairs in the canonical form
`Memory.wf`: addresses strictly rising, no pair that says what an unlisted address reads as. -/
structure Memory where
  file : List Host.Cell
  idx : List (Nat × Nibble)
  out : List (Nat × Token)
  lut : List (Nat × LutEntry)
  deriving DecidableEq, Repr

/-- One access of the host or the platform to the block (20_memory.md R46, 70_reset_and_hazards.md R104). -/
inductive HostAccess where
  /-- A 32-bit write of `value` at a byte offset. -/
  | write (offset value : Word)
  /-- A 32-bit read at a byte offset. -/
  | read (offset : Word)
  /-- Reset, which the platform may apply between any two accesses. -/
  | reset
  deriving DecidableEq, Repr

/-- The state of the PPLE. Computed views of it (STATUS, CFG, the data registers) are in Machine/Flags.lean and
Machine/Port.lean; each register has its one home here. -/
structure State where
  /-- The MODEL's own field: the instance's parameters (R21), which no step changes (log entry 1). -/
  params : Params
  /-- The MODEL's own field: the host accesses not yet served, oldest first (log entry 6). -/
  requests : List HostAccess
  /-- The MODEL's own field: what host reads have returned, oldest first (log entry 6). -/
  answers : List Word
  /-- CFG.MODE (R24, R25). -/
  mode : Mode
  /-- CFG.FMT (R24, R26). -/
  fmt : Format
  /-- PHASE (R28). -/
  phase : Phase
  /-- STATUS.OUT_VALID (R30). -/
  outValid : Bool
  /-- STATUS.WARN_EMPTY (R30). -/
  warnEmpty : Bool
  /-- STATUS.AWAIT_OPERAND, the valid bit of PENDING (R30, R33). -/
  awaitOperand : Bool
  /-- The PENDING latch (R33). -/
  pending : Word
  /-- STATUS.FAULT_CODE (R29). -/
  faultCode : FaultCode
  /-- FAULT_INFO[0..3] (R31). -/
  faultInfo : FaultInfo
  /-- LUT_COUNT (R32). -/
  lutCount : Word
  /-- DATA_OFF (R34). -/
  dataOff : Word
  /-- WIDTH, unsigned (R34). -/
  width : Word
  /-- HEIGHT, a two's complement pattern (R34). -/
  height : Word
  /-- FILE_LEN (R35). -/
  fileLen : Word
  /-- IDX_LEN (R35). -/
  idxLen : Word
  /-- OUT_LEN (R35). -/
  outLen : Word
  /-- LUT_SEL (R36). -/
  lutSel : Word
  /-- IDX_SEL (R36). -/
  idxSel : Word
  /-- OUT_SEL (R36). -/
  outSel : Word
  /-- The contents of FILE, IDX, OUT and the LUT (R32, R39). -/
  mem : Memory
  deriving DecidableEq, Repr

/-- The ways the MODEL stops with a fault. None is a fault of the block: a fault of the block (R94) is the next state that
fault entry makes (R95). All three are SAFE and are raised only in states no run reaches (log entry 11). -/
inductive Fault where
  /-- Raised by LUT_WR and CLASSIFY when LUT_COUNT is past LUT_DEPTH: the entry does not exist (R32). Safe. -/
  | outsideLut
  /-- Raised by FILE_WR, HDR and CLASSIFY when the byte's address is past FILE_MAX: the byte does not exist (R39). Safe. -/
  | outsideFile
  /-- Raised by CLASSIFY and ENCODE when WIDTH and HEIGHT are not ones HDR accepts for the mode or need more than IDX_MAX
  entries, so that an index address need not exist (R39, R72). Safe. -/
  | outsideIdx
  deriving DecidableEq, Repr

/-- The ways the MODEL refuses an instruction. -/
inductive Refusal where
  /-- Raised by `exec` for an instruction that has no meaning yet; none is left. Safe. -/
  | notModelled (mnemonic : String)
  /-- Raised by LUT_DEF under default tables that break R7 or R10: "a configuration that breaks this is ill-formed and the
  model refuses it" (log entry 5). Safe. -/
  | illFormedConfiguration
  deriving DecidableEq, Repr

/-- The outcome of an instruction or a step. -/
abbrev Result := Host.Outcome State Fault Refusal

/-- The machine right after reset (10_state.md R38, 70_reset_and_hazards.md R104). The contents R38 leaves unspecified are
those of log entry 8; `params`, `requests` and `answers` are the model's own (log entries 2 and 6). -/
def State.reset : State where
  params := Config.resetParams
  requests := []
  answers := []
  mode := .screen0
  fmt := .asm
  phase := .idle
  outValid := false
  warnEmpty := false
  awaitOperand := false
  pending := 0
  faultCode := .none
  faultInfo := ⟨0, 0, 0, 0⟩
  lutCount := 0
  dataOff := 0
  width := 0
  height := 0
  fileLen := 0
  idxLen := 0
  outLen := 0
  lutSel := 0
  idxSel := 0
  outSel := 0
  mem := ⟨[], [], [], []⟩

end Sys2Proof.Machine
end

