-- ==== Sys2Proof/Machine/Store.lean ====
section
/-! DEFINITION. Reading and writing a sparse store, the one form all four memory spaces share, and its canonical form; and the two loops that stop at the first error. -/

namespace Sys2Proof.Machine

/-- The cell at an address; `d` is what an unlisted address reads as. -/
def Store.read {α : Type} (d : α) : List (Nat × α) → Nat → α
  | [], _ => d
  | (b, v) :: rest, a => if a = b then v else Store.read d rest a

/-- Write one cell and keep the canonical form: writing `d` removes the entry. -/
def Store.write {α : Type} [DecidableEq α] (d : α) (a : Nat) (v : α) : List (Nat × α) → List (Nat × α)
  | [] => if v = d then [] else [(a, v)]
  | (b, w) :: rest =>
    if a < b then (if v = d then (b, w) :: rest else (a, v) :: (b, w) :: rest)
    else if a = b then (if v = d then rest else (a, v) :: rest)
    else (b, w) :: Store.write d a v rest

/-- Write a list of cells at consecutive addresses from `a` up. -/
def Store.writeFrom {α : Type} [DecidableEq α] (d : α) : Nat → List α → List (Nat × α) → List (Nat × α)
  | _, [], st => st
  | a, v :: vs, st => Store.writeFrom d (a + 1) vs (Store.write d a v st)

/-- The canonical form from address `lo` up: addresses strictly rising, no cell that reads as `d`. -/
def Store.wfFrom {α : Type} [DecidableEq α] (d : α) : Nat → List (Nat × α) → Bool
  | _, [] => true
  | lo, (a, v) :: rest => decide (lo ≤ a) && decide (v ≠ d) && Store.wfFrom d (a + 1) rest

/-- The canonical form of a store. -/
def Store.wf {α : Type} [DecidableEq α] (d : α) (st : List (Nat × α)) : Bool := Store.wfFrom d 0 st

/-- Every listed address is below `n`. -/
def Store.below {α : Type} (n : Nat) (st : List (Nat × α)) : Bool := st.all (fun c => decide (c.1 < n))

/-- What an OUT token that nothing has written reads as (log entry 8, DESIGN CHOICE; R38: unobservable). -/
def unlistedToken : Token := .data 0

/-- All four spaces are in canonical form. -/
def Memory.wf (m : Memory) : Bool :=
  Store.wf Config.unlistedByte m.file && Store.wf Config.unlistedIndex m.idx
    && Store.wf unlistedToken m.out && Store.wf Config.unlistedEntry m.lut

/-- Map a list in order, stopping at the first error: the shape of every checking loop of the rules ("loops run in ascending
order; the order is normative wherever a check can fault", 00_scope.md R18). -/
def tryMap {α β ε : Type} (f : α → Except ε β) : List α → Except ε (List β)
  | [] => .ok []
  | x :: xs =>
    match f x with
    | .error e => .error e
    | .ok y =>
      match tryMap f xs with
      | .error e => .error e
      | .ok ys => .ok (y :: ys)

/-- Run through a list in order with an accumulator, stopping at the first error (R18). -/
def tryFold {α σ ε : Type} (f : σ → α → Except ε σ) : σ → List α → Except ε σ
  | s, [] => .ok s
  | s, x :: xs =>
    match f s x with
    | .error e => .error e
    | .ok s' => tryFold f s' xs

end Sys2Proof.Machine
end

