-- ==== Sys2Proof/Machine/Flags.lean ====
section
/-! DEFINITION. The numbers of the phases, fault codes and tokens, and the STATUS and CFG registers as the host reads them (10_state.md R24, R28, R29; 20_memory.md R43; 60_exceptions.md R94). -/

namespace Sys2Proof.Machine

/-- The 3-bit number of a phase (R28). -/
def Phase.code : Phase → BitVec 3
  | .idle => 0
  | .config => 1
  | .lutDef => 2
  | .hdrOk => 3
  | .classified => 4
  | .done => 5
  | .fault => 7

/-- The 8-bit number of a fault code (R94). -/
def FaultCode.code : FaultCode → Byte
  | .none => 0
  | .invalidPaletteEntry => 1
  | .invalidPaletteIndex => 2
  | .invalidDimensions => 3
  | .unmappedColor => 4
  | .tooManyColorsPerLine => 5
  | .multipleSpriteColors => 6
  | .multipleColorsPerLine => 7
  | .illegalCommand => 8
  | .sequenceError => 9
  | .capacityExceeded => 10
  | .truncatedHeader => 11
  | .outOfRange => 12
  | .layoutOpen => 13

/-- The value of a SECTION token (R43). -/
def OutSection.code : OutSection → Byte
  | .main => 0
  | .colors => 1
  | .color => 2

/-- The 10 bits of a token: kind in 9:8, value in 7:0 (R43). -/
def Token.bits : Token → BitVec 10
  | .data b => (0#2 ++ b : BitVec (2 + 8))
  | .rowBreak => (1#2 ++ 0#8 : BitVec (2 + 8))
  | .sect k => (2#2 ++ k.code : BitVec (2 + 8))

/-- STATUS: 31:16 zero, FAULT_CODE 15:8, 7:6 zero, AWAIT_OPERAND 5, WARN_EMPTY 4, OUT_VALID 3, PHASE 2:0 (R29). -/
def State.statusWord (s : State) : Word :=
  (0#16 ++ s.faultCode.code ++ 0#2 ++ BitVec.ofBool s.awaitOperand ++ BitVec.ofBool s.warnEmpty
    ++ BitVec.ofBool s.outValid ++ s.phase.code : BitVec (16 + 8 + 2 + 1 + 1 + 1 + 3))

/-- CFG: 31:5 zero, FMT 4, MODE 3:0 (R24). -/
def cfgWordOf (fmt : Format) (mode : Mode) : Word := (0#27 ++ fmt.bit ++ mode.bits : BitVec (27 + 1 + 4))

/-- The CFG register (R24). -/
def State.cfgWord (s : State) : Word := cfgWordOf s.fmt s.mode

/-- CFG.MODE as a FAULT_INFO word (R94). -/
def State.modeWord (s : State) : Word := s.mode.bits.setWidth 32

/-- PHASE as a FAULT_INFO word (R94). -/
def State.phaseWord (s : State) : Word := s.phase.code.setWidth 32

end Sys2Proof.Machine
end

