-- ==== Sys2Proof/Machine/Operands.lean ====
section
/-! DEFINITION. Operand forms and the fixed properties of the modes: signed readings, clamping, index legality (R67), dimensions (R72), default tables (R9 to R11), image geometry (R74, R75). -/

namespace Sys2Proof

/-- A size as a FAULT_INFO word: clamped to `2^32 - 1` (60_exceptions.md R94, R98; log entry 16,
DEDUCED). -/
def clamp32 (n : Nat) : Word := BitVec.ofNat 32 (min n (2 ^ 32 - 1))

/-- `IDX = sext_32(w1)` (30_encoding.md R58). -/
def signedIndex (w1 : Word) : Int := w1.toInt

/-- All eight modes. -/
def allModes : List Mode := [.screen0, .screen1, .tile2lc, .screen3, .screen5, .screen6, .sprite1, .spritelc]

/-- `v in Legal(m)` (41_palette.md R67, 10_state.md R27). -/
def Mode.legal (m : Mode) (v : Int) : Bool :=
  match m with
  | .screen0 => decide (v = 1)
  | .screen1 => decide (v = 0 ∨ v = 1)
  | .tile2lc => decide (0 ≤ v ∧ v ≤ 15)
  | .screen3 => decide (0 ≤ v ∧ v ≤ 15)
  | .screen5 => decide (0 ≤ v ∧ v ≤ 15)
  | .screen6 => decide (0 ≤ v ∧ v ≤ 3)
  | .sprite1 => decide (0 ≤ v ∧ v ≤ 15)
  | .spritelc => decide (0 ≤ v ∧ v ≤ 15)

/-- A stored index is legal for a mode. -/
def Mode.legalIdx (m : Mode) (v : Nibble) : Bool := m.legal (v.toNat : Int)

/-- `DimsOK(m, W, h)` (42_image_input.md R72). -/
def dimsOk (m : Mode) (w : Nat) (h : Int) : Bool :=
  match m with
  | .screen0 => decide (w = 6 ∧ h.natAbs = 8)
  | .screen1 => decide (w = 8 ∧ h.natAbs = 8)
  | .tile2lc => decide (w = 8 ∧ h.natAbs = 8)
  | .screen3 => decide (w = 8 ∧ h.natAbs = 8)
  | .screen5 => decide (1 ≤ w ∧ 1 ≤ h.natAbs ∧ h ≠ -2 ^ 31)
  | .screen6 => decide (1 ≤ w ∧ 1 ≤ h.natAbs ∧ h ≠ -2 ^ 31)
  | .sprite1 => decide ((w = 8 ∧ h.natAbs = 8) ∨ (w = 16 ∧ h.natAbs = 16))
  | .spritelc => decide ((w = 8 ∧ h.natAbs = 8) ∨ (w = 16 ∧ h.natAbs = 16))

/-- The first entry of a table whose colour is `rgb`: linear scan, first match wins (43_classify.md R77). -/
def lookupIn : List LutEntry → Rgb → Option Nibble
  | [], _ => none
  | e :: rest, rgb => if e.rgb = rgb then some e.idx else lookupIn rest rgb

/-- The number of a mode as an index into `defaultSelect`. -/
def Mode.index : Mode → Fin 8
  | .screen0 => 0
  | .screen1 => 1
  | .tile2lc => 2
  | .screen3 => 3
  | .screen5 => 4
  | .screen6 => 5
  | .sprite1 => 6
  | .spritelc => 7

/-- `DEFAULT_TABLE[DEFAULT_SELECT(m)]` (R9, R11). -/
def Params.defaultTable (p : Params) (m : Mode) : List LutEntry := p.defaultTables[p.defaultSelect[m.index]]

/-- The constraints on the default tables: each fits the LUT (R7), each is legal for every mode that selects it, and
SCREEN0's maps FFFFFF to 1 (R10). -/
def Params.tablesOk (p : Params) : Bool :=
  p.defaultTables.toList.all (fun t => decide (t.length ≤ p.lutDepth.toNat))
    && allModes.all (fun m => (p.defaultTable m).all (fun e => m.legalIdx e.idx))
    && decide (lookupIn (p.defaultTable .screen0) 0xFFFFFF = some 1)

/-- `pad(W)`, the padding bytes of a stored row, by R74's formula (43_classify.md R74; its list of values exchanges two
residues: log entry 10, DEDUCED). -/
def rowPad (w : Nat) : Nat := (4 - (w * 3) % 4) % 4

/-- `stride(W)`, the bytes of a stored row (R74). -/
def rowStride (w : Nat) : Nat := 3 * w + rowPad w

/-- `prow(r)`: the physical row of logical row `r` for signed height `h` (R75). -/
def physicalRow (h : Int) (r : Nat) : Nat := if 0 < h then h.natAbs - 1 - r else r

end Sys2Proof

namespace Sys2Proof.Machine

/-- `W = WIDTH`, unsigned (R34). -/
def State.imageW (s : State) : Nat := s.width.toNat

/-- `h = sext_32(HEIGHT)` (R34). -/
def State.signedHeight (s : State) : Int := s.height.toInt

/-- `H = abs(h)`. -/
def State.imageH (s : State) : Nat := s.signedHeight.natAbs

/-- `N = W * H`. -/
def State.pixelCount (s : State) : Nat := s.imageW * s.imageH

end Sys2Proof.Machine
end

