-- ==== Sys2Proof/Machine/Ops.lean ====
section
/-! DEFINITION. The named operations over registers and memory that the commands share: fault entry (R95), the way out of it (R96, R97), sequencing (R105), the reads and the visible writes of FILE, IDX, OUT and the LUT. -/

namespace Sys2Proof.Machine

/-- What `raise F(a, b, c, d)` carries: the code and the four FAULT_INFO words; omitted words are 0 (00_scope.md R18). -/
structure Trap where
  code : FaultCode
  a : Word := 0
  b : Word := 0
  c : Word := 0
  d : Word := 0
  deriving DecidableEq, Repr

/-- FAULT ENTRY, the one way into phase FAULT (60_exceptions.md R95). Nothing but these fields changes. -/
def State.raise (t : Trap) (s : State) : State :=
  { s with
    faultCode := t.code
    faultInfo := ⟨t.a, t.b, t.c, t.d⟩
    outLen := 0
    outValid := false
    phase := .fault }

/-- THE WAY OUT OF A FAULT and the start of every run: what a well-formed CFG does in any phase (40_control.md R66,
60_exceptions.md R96, R97). Memory contents and selectors keep their values. -/
def State.newRun (fmt : Format) (mode : Mode) (s : State) : State :=
  { s with
    mode := mode
    fmt := fmt
    lutCount := 0
    fileLen := 0
    dataOff := 0
    width := 0
    height := 0
    idxLen := 0
    outLen := 0
    outValid := false
    warnEmpty := false
    faultCode := .none
    faultInfo := ⟨0, 0, 0, 0⟩
    phase := .config }

/-- Which commands each phase accepts (70_reset_and_hazards.md R105), outside phase FAULT. An illegal word is never
sequenced: decode refuses it first (R60). -/
def accepts (i : Instr) (s : State) : Bool :=
  match i with
  | .nop _ => true
  | .cfg _ _ => true
  | .lutWr _ _ _ => decide (s.phase = .config)
  | .lutDef => decide (s.phase = .config ∧ s.lutCount = 0)
  | .fileWr _ => decide (s.phase = .config ∨ s.phase = .lutDef)
  | .hdr => decide (s.phase = .config ∨ s.phase = .lutDef)
  | .classify => decide (s.phase = .hdrOk)
  | .encode => decide (s.phase = .classified)
  | .illegal _ => false

/-- Sequencing of a decoded command: ignored in phase FAULT (R96), SequenceError(w, PHASE) where the phase does not accept it
(R105), else its own effect `k`. -/
def sequenced (i : Instr) (s : State) (k : Result) : Result :=
  if s.phase = .fault then .next s
  else if accepts i s then k
  else .next (s.raise ⟨.sequenceError, i.firstWord, s.phaseWord, 0, 0⟩)

/-- FILE byte `a` (20_memory.md R39, R40). -/
def State.fileAt (s : State) (a : Nat) : Byte := Store.read Config.unlistedByte s.mem.file a

/-- IDX entry `i` (R42). -/
def State.idxAt (s : State) (i : Nat) : Nibble := Store.read Config.unlistedIndex s.mem.idx i

/-- OUT token `j` (R43). -/
def State.outAt (s : State) (j : Nat) : Token := Store.read unlistedToken s.mem.out j

/-- LUT entry `k` (10_state.md R32). -/
def State.lutAt (s : State) (k : Nat) : LutEntry := Store.read Config.unlistedEntry s.mem.lut k

/-- `MemRead(FILE, a, n)`: `n` bytes from `a` as a little-endian integer (00_scope.md R17, 20_memory.md R48). -/
def State.fileLE (s : State) (a : Nat) : Nat → Nat
  | 0 => 0
  | n + 1 => (s.fileAt a).toNat + 256 * s.fileLE (a + 1) n

/-- A 4-byte header field (42_image_input.md R73). -/
def State.headerWord (s : State) (a : Nat) : Word := BitVec.ofNat 32 (s.fileLE a 4)

/-- `RAW_LEN = max(0, FILE_LEN - DATA_OFF)` (20_memory.md R41). -/
def State.rawLen (s : State) : Nat := s.fileLen.toNat - s.dataOff.toNat

/-- `RAW[p] = FILE[DATA_OFF + p]` (R41). -/
def State.rawAt (s : State) (p : Nat) : Byte := s.fileAt (s.dataOff.toNat + p)

/-- The conversion table: entries `LUT[0 .. LUT_COUNT-1]` in insertion order (R32). -/
def State.table (s : State) : List LutEntry := (List.range s.lutCount.toNat).map s.lutAt

/-- `LUT[n] <- e; LUT_COUNT <- n + 1` with `n = LUT_COUNT` (41_palette.md R69). -/
def State.appendLut (e : LutEntry) (s : State) : State :=
  { s with
    lutCount := s.lutCount + 1
    mem := { s.mem with lut := Store.write Config.unlistedEntry s.lutCount.toNat e s.mem.lut } }

/-- A whole table into the LUT, PHASE LUTDEF (R70). -/
def State.loadTable (t : List LutEntry) (s : State) : State :=
  { s with
    lutCount := BitVec.ofNat 32 t.length
    phase := .lutDef
    mem := { s.mem with lut := Store.writeFrom Config.unlistedEntry 0 t s.mem.lut } }

/-- `FILE[FILE_LEN] <- b; FILE_LEN <- FILE_LEN + 1` (42_image_input.md R71). -/
def State.appendFile (b : Byte) (s : State) : State :=
  { s with
    fileLen := s.fileLen + 1
    mem := { s.mem with file := Store.write Config.unlistedByte s.fileLen.toNat b s.mem.file } }

/-- The three header registers as HDR reads them from FILE (R73). -/
def State.readHeader (s : State) : State :=
  { s with
    dataOff := s.headerWord 10
    width := s.headerWord 18
    height := s.headerWord 22 }

/-- The PixelIndexSequence into IDX, IDX_LEN, PHASE CLASSIFIED (43_classify.md R78). -/
def State.storeIndices (px : List Nibble) (s : State) : State :=
  { s with
    idxLen := BitVec.ofNat 32 px.length
    phase := .classified
    mem := { s.mem with idx := Store.writeFrom Config.unlistedIndex 0 px s.mem.idx } }

/-- The finished output into OUT, OUT_LEN, OUT_VALID, PHASE DONE (44_encode_tiles.md R79, 20_memory.md R44). -/
def State.storeOutput (ts : List Token) (s : State) : State :=
  { s with
    outLen := BitVec.ofNat 32 ts.length
    outValid := true
    phase := .done
    mem := { s.mem with out := Store.writeFrom unlistedToken 0 ts s.mem.out } }

/-- `warn WARN_EMPTY` where `b` says so; it never clears the flag (60_exceptions.md R100). -/
def State.warnIf (b : Bool) (s : State) : State := { s with warnEmpty := s.warnEmpty || b }

/-- The arrival of a LUT_WR's first word (10_state.md R33, 30_encoding.md R56). -/
def State.latch (w : Word) (s : State) : State := { s with pending := w, awaitOperand := true }

/-- The second word has come: the valid bit clears (R33, R56). The latch keeps its contents (log entry 12, DEDUCED). -/
def State.unlatch (s : State) : State := { s with awaitOperand := false }

/-- Place a complete command where the next step takes it: its last word at the head of the host's accesses, and a LUT_WR's
first word in the latch, as if it had just arrived (log entry 7). Offset 0 is CMD (20_memory.md R46). -/
def State.placeCommand (w0 w1 : Word) (s : State) : State :=
  if opcodeOf w0 = 2 then
    { s with pending := w0, awaitOperand := true, requests := .write 0 w1 :: s.requests }
  else
    { s with awaitOperand := false, requests := .write 0 w0 :: s.requests }

end Sys2Proof.Machine
end

