-- ==== Sys2Proof/Machine/Classify.lean ====
section
/-! DEFINITION. The meaning of CLASSIFY: pixel fetch, table lookup and the PixelIndexSequence (43_classify.md R74 to R78). -/

namespace Sys2Proof.Machine

/-- The RAW offset of logical pixel `i`'s first byte (R75, R76). -/
def State.pixelOffset (s : State) (i : Nat) : Nat :=
  physicalRow s.signedHeight (i / s.imageW) * rowStride s.imageW + 3 * (i % s.imageW)

/-- The colour stored at a RAW offset: B, G, R in ascending bytes, read as `R << 16 | G << 8 | B` (R76, 20_memory.md R48). -/
def State.colorAt (s : State) (off : Nat) : Rgb :=
  (s.rawAt (off + 2) ++ s.rawAt (off + 1) ++ s.rawAt off : BitVec (8 + 8 + 8))

/-- Pixel fetch (R76): OutOfRange where one of the three bytes is past the end of the file. -/
def State.fetchPixel (s : State) (i : Nat) : Except Trap Rgb :=
  if s.rawLen ≤ s.pixelOffset i + 2 then
    .error ⟨.outOfRange, 0, clamp32 i, clamp32 (s.pixelOffset i + 2), 0⟩
  else .ok (s.colorAt (s.pixelOffset i))

/-- Table lookup (R77): the first match, else index 0 in SCREEN0, else UnmappedColor. -/
def State.lookupPixel (s : State) (rgb : Rgb) (i : Nat) : Except Trap Nibble :=
  match lookupIn s.table rgb with
  | some v => .ok v
  | none =>
    if s.mode = .screen0 then .ok 0
    else .error ⟨.unmappedColor, rgb.setWidth 32, clamp32 i, 0, 0⟩

/-- One pixel of CLASSIFY's loop: a missing byte is found before a missing colour (R78, 60_exceptions.md R99). -/
def State.classifyPixel (s : State) (i : Nat) : Except Trap Nibble :=
  match s.fetchPixel i with
  | .error t => .error t
  | .ok rgb => s.lookupPixel rgb i

/-- The whole PixelIndexSequence in logical order, or the fault of the lowest pixel that has one (R78). -/
def State.classifyAll (s : State) : Except Trap (List Nibble) :=
  tryMap s.classifyPixel (List.range s.pixelCount)

/-- CLASSIFY's own effect (R78). IDX is written only when every pixel has its index (60_exceptions.md R95; log entry 9). The
first three cases are states no run reaches, in which a cell would lie outside its space (log entry 11). -/
def classifyImage (s : State) : Result :=
  if s.params.fileMax < s.fileLen then .fault .outsideFile
  else if s.params.lutDepth < s.lutCount then .fault .outsideLut
  else if s.params.idxMax.toNat < s.pixelCount then .fault .outsideIdx
  else
    match s.classifyAll with
    | .error t => .next (s.raise t)
    | .ok px => .next (s.storeIndices px)

/-- CLASSIFY: build the PixelIndexSequence (R78). -/
def execClassify (s : State) : Result := sequenced .classify s (classifyImage s)

end Sys2Proof.Machine
end

