-- ==== Sys2Proof/Machine/Control.lean ====
section
/-! DEFINITION. The meanings of NOP, CFG and the illegal words (40_control.md R65, R66; 30_encoding.md R60, R61). -/

namespace Sys2Proof.Machine

/-- NOP: no state changes, in every phase, whatever the hint (R65). -/
def execNop (_hint : BitVec 28) (s : State) : Result := .next s

/-- CFG: a new run in the given mode and format, in every phase, FAULT too (R66, 60_exceptions.md R96). -/
def execCfg (fmt : Format) (mode : Mode) (s : State) : Result := .next (s.newRun fmt mode)

/-- A word outside the opcode map: IllegalCommand(w), before any sequencing (R60, R61, 60_exceptions.md R99); ignored in phase
FAULT (60_exceptions.md R96). -/
def execIllegal (w : Word) (s : State) : Result :=
  if s.phase = .fault then .next s else .next (s.raise ⟨.illegalCommand, w, 0, 0, 0⟩)

end Sys2Proof.Machine
end

