-- ==== Sys2Proof/Machine/Tiles.lean ====
section
/-! DEFINITION. The tile encoders TILE1, TILE2 and PLANE as functions of the index sequence (44_encode_tiles.md R81 to R84). -/

namespace Sys2Proof.Machine

/-- What an encoder that ends without a fault gives: the token list T (20_memory.md R44) and whether it warned (R100). -/
structure Encoded where
  tokens : List Token
  warnEmpty : Bool := false
  deriving DecidableEq, Repr

/-- `(hi << 4) | lo` of two 4-bit indices. -/
def nibblePair (hi lo : Nibble) : Byte := (hi ++ lo : BitVec (4 + 4))

/-- The byte with bit `7 - c` set for every column `c` of 0..7 that satisfies `p`. -/
def maskByte (p : Nat → Bool) : Byte :=
  (List.range 8).foldl (fun b c => if p c then b ||| (1#8 <<< (7 - c)) else b) 0

/-- One row byte of TILE1: the OR of `ix(r, c) << (7 - c)` (R81; log entry 15). -/
def tile1Row (ix : Nat → Nibble) (w r : Nat) : Byte :=
  (List.range w).foldl (fun b c => b ||| ((ix (r * w + c)).setWidth 8 <<< (7 - c))) 0

/-- TILE1 (R81). -/
def tile1 (ix : Nat → Nibble) (w h : Nat) : List Token :=
  .sect .main :: (List.range h).map (fun r => .data (tile1Row ix w r))

/-- TILE2's check of one row: its distinct indices in first-seen order, at most two (R82). -/
def scanTwoColors (ix : Nat → Nibble) (w r : Nat) : List Nat → List Nibble → Except Trap (List Nibble)
  | [], seen => .ok seen
  | c :: cs, seen =>
    let v := ix (r * w + c)
    if v ∈ seen then scanTwoColors ix w r cs seen
    else if seen.length = 2 then
      .error ⟨.tooManyColorsPerLine, clamp32 r, clamp32 c, v.setWidth 32, 0⟩
    else scanTwoColors ix w r cs (seen ++ [v])

/-- The bitmap byte and the colour byte of a row whose distinct indices are `seen` (R82). -/
def tile2Bytes (ix : Nat → Nibble) (w r : Nat) (seen : List Nibble) : Byte × Byte :=
  match seen with
  | [first, second] => (maskByte (fun c => ix (r * w + c) == second), nibblePair second first)
  | first :: _ => (0, nibblePair 0 first)
  | [] => (0, 0)

/-- One row of TILE2 (R82). -/
def tile2Row (ix : Nat → Nibble) (w r : Nat) : Except Trap (Byte × Byte) :=
  match scanTwoColors ix w r (List.range 8) [] with
  | .error t => .error t
  | .ok seen => .ok (tile2Bytes ix w r seen)

/-- TILE2: rows in order, then the bitmaps, then the colours (R82). -/
def tile2 (ix : Nat → Nibble) (w : Nat) : Except Trap (List Token) :=
  match tryMap (tile2Row ix w) (List.range 8) with
  | .error t => .error t
  | .ok rows =>
    .ok (.sect .main :: rows.map (fun p => Token.data p.1) ++ .sect .colors :: rows.map (fun p => Token.data p.2))

/-- PLANE: four sampled indices in two bytes (R84). -/
def plane (ix : Nat → Nibble) (w : Nat) : List Token :=
  [ .sect .main,
    .data (nibblePair (ix 0) (ix 4)),
    .data (nibblePair (ix (4 * w)) (ix (4 * w + 4))) ]

end Sys2Proof.Machine
end

