-- ==== Sys2Proof/Machine/Raw.lean ====
section
/-! DEFINITION. The raw encoders RAW4 and RAW2 (45_encode_raw.md R85 to R87). -/

namespace Sys2Proof.Machine

/-- `if i mod W = 0 then emit(ROWBREAK)` after a byte (R85 (c)). -/
def rowEnd (w i : Nat) : List Token := if i % w = 0 then [.rowBreak] else []

/-- RAW4's loop from sample `i`; `fuel` bounds the number of bytes, and `n` is enough since each byte takes a sample (R86,
70_reset_and_hazards.md R110). -/
def raw4From (ix : Nat → Nibble) (w n : Nat) : Nat → Nat → List Token
  | 0, _ => []
  | fuel + 1, i =>
    if i < n then
      if i % w = w - 1 then
        .data (nibblePair (ix i) 0) :: (rowEnd w (i + 1) ++ raw4From ix w n fuel (i + 1))
      else
        .data (nibblePair (ix i) (ix (i + 1))) :: (rowEnd w (i + 2) ++ raw4From ix w n fuel (i + 2))
    else []

/-- RAW4 (R86). -/
def raw4 (ix : Nat → Nibble) (w n : Nat) : List Token := .sect .main :: raw4From ix w n n 0

/-- RAW2's byte: `k` samples from `i`, sample `j` in bits `7-2j .. 6-2j` (R87; log entry 15). -/
def raw2Byte (ix : Nat → Nibble) (i k : Nat) : Byte :=
  (List.range k).foldl (fun b j => b ||| ((ix (i + j)).setWidth 8 <<< (6 - 2 * j))) 0

/-- RAW2's loop from sample `i`, with fuel as in `raw4From` (R87). -/
def raw2From (ix : Nat → Nibble) (w n : Nat) : Nat → Nat → List Token
  | 0, _ => []
  | fuel + 1, i =>
    if i < n then
      let k := min 4 (w - i % w)
      .data (raw2Byte ix i k) :: (rowEnd w (i + k) ++ raw2From ix w n fuel (i + k))
    else []

/-- RAW2 (R87). -/
def raw2 (ix : Nat → Nibble) (w n : Nat) : List Token := .sect .main :: raw2From ix w n n 0

end Sys2Proof.Machine
end

