-- ==== Sys2Proof/Machine/Sif.lean ====
section
/-! DEFINITION. The SIF binary encoder (47_encode_sif.md R92, R93). -/

namespace Sys2Proof.Machine

/-- The width rounded up to even (R92). -/
def evenWidth (w : Nat) : Nat := w + w % 2

/-- The two bytes of a 16-bit little-endian field (R92). -/
def le16 (v : Nat) : List Byte := [BitVec.ofNat 8 (v % 256), BitVec.ofNat 8 (v / 256)]

/-- SifHeader's bytes: "S", "I", "F", the even width, the row count (R92). -/
def sifHeader (w h : Nat) : List Byte := [0x53, 0x49, 0x46] ++ le16 (evenWidth w) ++ le16 h

/-- SifBody's loop from sample `i`, with fuel as in `raw4From` (R93). -/
def sifFrom (ix : Nat → Nibble) (w n : Nat) : Nat → Nat → Except Trap (List Byte)
  | 0, _ => .ok []
  | fuel + 1, i =>
    if i < n then
      if i ≠ 0 ∧ (i + 1) % w = 0 then
        match sifFrom ix w n fuel (i + 1) with
        | .error t => .error t
        | .ok bs => .ok (nibblePair (ix i) 0 :: bs)
      else if n ≤ i + 1 then .error ⟨.outOfRange, 1, clamp32 i, clamp32 (i + 1), 0⟩
      else
        match sifFrom ix w n fuel (i + 2) with
        | .error t => .error t
        | .ok bs => .ok (nibblePair (ix i) (ix (i + 1)) :: bs)
    else .ok []

/-- SifBody (R93). -/
def sifBody (ix : Nat → Nibble) (w n : Nat) : Except Trap (List Byte) := sifFrom ix w n n 0

/-- The whole SIF output: the header check, the header, the body, all DATA tokens (R92, R93). -/
def sif (width height : Word) (mode : Mode) (ix : Nat → Nibble) (w h : Nat) : Except Trap (List Token) :=
  if 0xFFFF < evenWidth w ∨ 0xFFFF < h then
    .error ⟨.invalidDimensions, width, height, 1, mode.bits.setWidth 32⟩
  else
    match sifBody ix w (w * h) with
    | .error t => .error t
    | .ok body => .ok ((sifHeader w h ++ body).map Token.data)

end Sys2Proof.Machine
end

