-- ==== Sys2Proof/Machine/Sprites.lean ====
section
/-! DEFINITION. The sprite encoders SPRS and SPRL with the open post-processing of 16x16 line-colour sprites (46_encode_sprites.md R88 to R91). -/

namespace Sys2Proof.Machine

/-- `base(b)`, the IDX offset of block `b` (R88). -/
def blockBase (b : Nat) : Nat := b % 2 * 128 + b / 2 * 8

/-- `nb`, the number of 8x8 blocks (R88). -/
def blockCount (w h : Nat) : Nat := w / 8 * (h / 8)

/-- The index of pixel `k` of row `j` of block `b` (R88). -/
def blockPixel (ix : Nat → Nibble) (w b j k : Nat) : Nibble := ix (blockBase b + j * w + k)

/-- The block rows in visiting order: blocks, then rows inside a block (R88). -/
def blockRows (nb : Nat) : List (Nat × Nat) :=
  (List.range nb).flatMap (fun b => (List.range 8).map (fun j => (b, j)))

/-- The shape byte of a block row: bit `7 - k` is 1 iff pixel `k` is non-zero (R88). -/
def shapeByte (ix : Nat → Nibble) (w : Nat) (p : Nat × Nat) : Byte :=
  maskByte (fun k => blockPixel ix w p.1 p.2 k != 0)

/-- One pixel of a one-colour check: the colour so far, and the fault `code` at a second distinct non-zero index (R89, R90). -/
def trackColor (code : FaultCode) (ix : Nat → Nibble) (w : Nat) (p : Nat × Nat) (g : Option Nibble) (k : Nat) :
    Except Trap (Option Nibble) :=
  let v := blockPixel ix w p.1 p.2 k
  if v = 0 then .ok g
  else
    match g with
    | none => .ok (some v)
    | some c =>
      if v = c then .ok g
      else .error ⟨code, clamp32 p.1, clamp32 p.2, clamp32 k, (nibblePair c v).setWidth 32⟩

/-- One block row of a one-colour check, its pixels left to right. -/
def trackRow (code : FaultCode) (ix : Nat → Nibble) (w : Nat) (g : Option Nibble) (p : Nat × Nat) :
    Except Trap (Option Nibble) :=
  tryFold (trackColor code ix w p) g (List.range 8)

/-- SPRS: one colour for the whole sprite; an all-zero sprite has no colour section and warns (R89, R100). -/
def sprSingle (ix : Nat → Nibble) (w h : Nat) : Except Trap Encoded :=
  let rows := blockRows (blockCount w h)
  match tryFold (trackRow .multipleSpriteColors ix w) none rows with
  | .error t => .error t
  | .ok g =>
    let shape := .sect .main :: rows.map (fun p => Token.data (shapeByte ix w p))
    match g with
    | none => .ok ⟨shape, true⟩
    | some c => .ok ⟨shape ++ [.sect .color, .data (c.setWidth 8)], false⟩

/-- The colour of one block row, 0 where it has no non-zero pixel (R90). -/
def lineColor (ix : Nat → Nibble) (w : Nat) (p : Nat × Nat) : Except Trap Nibble :=
  match trackRow .multipleColorsPerLine ix w none p with
  | .error t => .error t
  | .ok g => .ok (g.getD 0)

/-- The bytes a replacement SPRITELC_POST gives for the line colours: its graph's first pair with that argument, `none` where
it answers Refuse (00_scope.md R13; log entry 4). -/
def postBytes : List (List Nibble × List Byte) → List Nibble → Option (List Byte)
  | [], _ => none
  | (arg, bytes) :: rest, lc => if arg = lc then some bytes else postBytes rest lc

/-- The output of a sprite with a colour table: shape bytes, then the table (R90, R91). -/
def lineOutput (shape colors : List Byte) : List Token :=
  .sect .main :: shape.map Token.data ++ .sect .colors :: colors.map Token.data

/-- LayoutOpen(16, 16): 92_eei_decisions.md D26 and R91's line on faults, a top-down sprite's too (log entry 23, DEDUCED). -/
def layoutOpenTrap : Trap := ⟨.layoutOpen, 16, 16, 0, 0⟩

/-- SprLinePost (R91): LayoutOpen under the default and where the replacement refuses, else the replacement's bytes. -/
def sprLinePost (post : Option (List (List Nibble × List Byte))) (shape : List Byte) (lc : List Nibble) :
    Except Trap Encoded :=
  match post with
  | none => .error layoutOpenTrap
  | some graph =>
    match postBytes graph lc with
    | none => .error layoutOpenTrap
    | some bytes => .ok ⟨lineOutput shape bytes, false⟩

/-- SPRL: one colour per block row (R90); a 16x16 sprite goes on to SprLinePost, after every row has passed its check. -/
def sprLine (post : Option (List (List Nibble × List Byte))) (ix : Nat → Nibble) (w h : Nat) : Except Trap Encoded :=
  let rows := blockRows (blockCount w h)
  let shape := rows.map (shapeByte ix w)
  match tryMap (lineColor ix w) rows with
  | .error t => .error t
  | .ok lc =>
    if blockCount w h = 1 then .ok ⟨lineOutput shape (lc.map (fun c => c.setWidth 8)), false⟩
    else sprLinePost post shape lc

end Sys2Proof.Machine
end

