-- ==== Sys2Proof/Machine/Encode.lean ====
section
/-! DEFINITION. The meaning of ENCODE: the dispatch over format and mode, the capacity check and the visible output (44_encode_tiles.md R79, R80; 20_memory.md R44). -/

namespace Sys2Proof.Machine

/-- The output of an encoder that neither faults nor warns. -/
def plainOutput (r : Except Trap (List Token)) : Except Trap Encoded :=
  match r with
  | .error t => .error t
  | .ok ts => .ok ⟨ts, false⟩

/-- The encoder CFG selects, run on IDX, WIDTH and HEIGHT (R79, 10_state.md R25, R26). -/
def State.encoded (s : State) : Except Trap Encoded :=
  match s.fmt with
  | .sif => plainOutput (sif s.width s.height s.mode s.idxAt s.imageW s.imageH)
  | .asm =>
    match s.mode with
    | .screen0 => .ok ⟨tile1 s.idxAt s.imageW s.imageH, false⟩
    | .screen1 => .ok ⟨tile1 s.idxAt s.imageW s.imageH, false⟩
    | .tile2lc => plainOutput (tile2 s.idxAt s.imageW)
    | .screen3 => .ok ⟨plane s.idxAt s.imageW, false⟩
    | .screen5 => .ok ⟨raw4 s.idxAt s.imageW s.pixelCount, false⟩
    | .screen6 => .ok ⟨raw2 s.idxAt s.imageW s.pixelCount, false⟩
    | .sprite1 => sprSingle s.idxAt s.imageW s.imageH
    | .spritelc => sprLine s.params.spritePost s.idxAt s.imageW s.imageH

/-- After the encoder: the capacity check, then the visible writes (R44, R79). -/
def finishOutput (ts : List Token) (s : State) : State :=
  if s.params.outMax.toNat < ts.length then
    s.raise ⟨.capacityExceeded, 3, clamp32 ts.length, 0, 0⟩
  else s.storeOutput ts

/-- ENCODE's own effect (R79). WARN_EMPTY stays 1 even if the capacity check then faults. The first case is a state no run
reaches, in which the encoder's addresses need not lie in IDX (log entry 11). -/
def encodeImage (s : State) : Result :=
  if dimsOk s.mode s.imageW s.signedHeight = false ∨ s.params.idxMax.toNat < s.pixelCount then .fault .outsideIdx
  else
    match s.encoded with
    | .error t => .next (s.raise t)
    | .ok e => .next (finishOutput e.tokens (s.warnIf e.warnEmpty))

/-- ENCODE: pack the PixelIndexSequence into the output stream (R79). -/
def execEncode (s : State) : Result := sequenced .encode s (encodeImage s)

end Sys2Proof.Machine
end

