-- ==== Sys2Proof/Machine/Image.lean ====
section
/-! DEFINITION. The meanings of the image input commands FILE_WR and HDR (42_image_input.md R71 to R73). -/

namespace Sys2Proof.Machine

/-- FILE_WR's own check and effect (R71). -/
def writeFile (b : Byte) (s : State) : Result :=
  if s.fileLen = s.params.fileMax then
    .next (s.raise ⟨.capacityExceeded, 1, clamp32 (s.fileLen.toNat + 1), 0, 0⟩)
  else if s.params.fileMax < s.fileLen then .fault .outsideFile
  else .next (s.appendFile b)

/-- HDR's checks on the header just read, which stays in the registers when one fails (R73). -/
def checkHeader (s : State) : State :=
  if dimsOk s.mode s.imageW s.signedHeight = false then
    s.raise ⟨.invalidDimensions, s.width, s.height, 0, s.modeWord⟩
  else if s.params.idxMax.toNat < s.pixelCount then
    s.raise ⟨.capacityExceeded, 2, clamp32 s.pixelCount, 0, 0⟩
  else { s with phase := .hdrOk }

/-- HDR's own checks and effect (R73). -/
def takeHeader (s : State) : Result :=
  if s.fileLen.toNat < 26 then .next (s.raise ⟨.truncatedHeader, s.fileLen, 0, 0, 0⟩)
  else if s.params.fileMax.toNat < 26 then .fault .outsideFile
  else .next (checkHeader s.readHeader)

/-- FILE_WR: append one byte of the input file (R71). -/
def execFileWr (b : Byte) (s : State) : Result := sequenced (.fileWr b) s (writeFile b s)

/-- HDR: read the image header and enforce the mode's dimensions (R73). -/
def execHdr (s : State) : Result := sequenced .hdr s (takeHeader s)

end Sys2Proof.Machine
end

