-- ==== Sys2Proof/Machine/Palette.lean ====
section
/-! DEFINITION. The meanings of the palette commands LUT_WR and LUT_DEF (41_palette.md R69, R70). -/

namespace Sys2Proof.Machine

/-- LUT_WR's own checks and effect, in R69's order: colour length, index legality, capacity, append. -/
def writeLut (len : BitVec 4) (rgb : Rgb) (w1 : Word) (s : State) : Result :=
  if len ≠ 3 then .next (s.raise ⟨.invalidPaletteEntry, s.lutCount, len.setWidth 32, 0, 0⟩)
  else if s.mode.legal (signedIndex w1) = false then
    .next (s.raise ⟨.invalidPaletteIndex, s.lutCount, w1, s.modeWord, 0⟩)
  else if s.lutCount = s.params.lutDepth then
    .next (s.raise ⟨.capacityExceeded, 0, clamp32 (s.lutCount.toNat + 1), 0, 0⟩)
  else if s.params.lutDepth < s.lutCount then .fault .outsideLut
  else .next (s.appendLut ⟨rgb, w1.setWidth 4⟩)

/-- LUT_DEF's own effect (R70): the mode's default table; refused under tables R7 and R10 do not allow (log entry 5). -/
def loadDefault (s : State) : Result :=
  if s.params.tablesOk then .next (s.loadTable (s.params.defaultTable s.mode))
  else .refused .illFormedConfiguration

/-- LUT_WR: append one conversion-table entry (R69). -/
def execLutWr (len : BitVec 4) (rgb : Rgb) (w1 : Word) (s : State) : Result :=
  sequenced (.lutWr len rgb w1) s (writeLut len rgb w1 s)

/-- LUT_DEF: load the mode's built-in conversion table (R70). -/
def execLutDef (s : State) : Result := sequenced .lutDef s (loadDefault s)

end Sys2Proof.Machine
end

