-- ==== Sys2Proof/Machine/Dispatch.lean ====
section
/-! DEFINITION. The dispatch: one arm per command (30_encoding.md R59). -/

namespace Sys2Proof.Machine

def exec (i : Instr) (s : State) : Host.Outcome State Fault Refusal :=
  match i with
  | .nop hint => Sys2Proof.Machine.execNop hint s
  | .cfg fmt mode => Sys2Proof.Machine.execCfg fmt mode s
  | .lutWr len rgb w1 => Sys2Proof.Machine.execLutWr len rgb w1 s
  | .lutDef => Sys2Proof.Machine.execLutDef s
  | .fileWr byte => Sys2Proof.Machine.execFileWr byte s
  | .hdr => Sys2Proof.Machine.execHdr s
  | .classify => Sys2Proof.Machine.execClassify s
  | .encode => Sys2Proof.Machine.execEncode s
  | .illegal w => Sys2Proof.Machine.execIllegal w s

end Sys2Proof.Machine
end

