-- ==== Sys2Proof/Machine/Port.lean ====
section
/-! DEFINITION. The host's side of the block: the register map (20_memory.md R46), the delivery of command words (R47, 30_encoding.md R56) and reset (70_reset_and_hazards.md R104). -/

namespace Sys2Proof.Machine

/-- `(LUT[k].idx << 24) OR LUT[k].rgb` (R46). -/
def entryWord (e : LutEntry) : Word := (0#4 ++ e.idx ++ e.rgb : BitVec (4 + 4 + 24))

/-- OUT_DATA (R46). -/
def State.outData (s : State) : Word :=
  if s.outSel < s.outLen then (s.outAt s.outSel.toNat).bits.setWidth 32 else 0

/-- IDX_DATA (R46). -/
def State.idxData (s : State) : Word :=
  if s.idxSel < s.idxLen then (s.idxAt s.idxSel.toNat).setWidth 32 else 0

/-- LUT_DATA (R46). -/
def State.lutData (s : State) : Word :=
  if s.lutSel < s.lutCount then entryWord (s.lutAt s.lutSel.toNat) else 0

/-- What a host read at a byte offset returns (R46). Reserved offsets and offsets that are not multiples of 4 read 0. -/
def State.hostRead (s : State) (offset : Word) : Word :=
  match offset.toNat with
  | 0x00 => 0
  | 0x04 => s.statusWord
  | 0x08 => s.cfgWord
  | 0x0C => s.faultInfo.fi0
  | 0x10 => s.faultInfo.fi1
  | 0x14 => s.faultInfo.fi2
  | 0x18 => s.faultInfo.fi3
  | 0x1C => s.dataOff
  | 0x20 => s.width
  | 0x24 => s.height
  | 0x28 => s.lutCount
  | 0x2C => s.fileLen
  | 0x30 => s.idxLen
  | 0x34 => s.outLen
  | 0x38 => s.outSel
  | 0x3C => s.outData
  | 0x40 => s.idxSel
  | 0x44 => s.idxData
  | 0x48 => s.lutSel
  | 0x4C => s.lutData
  | _ => 0

/-- One word written to CMD (R47): the second word of a waiting LUT_WR, the first word of one, or a whole command
(30_encoding.md R56). The latch works the same in every phase (60_exceptions.md R96). -/
def deliver (w : Word) (s : State) : Result :=
  if s.awaitOperand then exec (lutWrOf s.pending w) s.unlatch
  else
    match decode [w] with
    | .ok (i, _) => exec i s
    | .error _ => .next (s.latch w)

/-- A host write at a byte offset: CMD, a selector, or a register it cannot write, where it is ignored (R46). -/
def hostWrite (offset value : Word) (s : State) : Result :=
  match offset.toNat with
  | 0x00 => deliver value s
  | 0x38 => .next { s with outSel := value }
  | 0x40 => .next { s with idxSel := value }
  | 0x48 => .next { s with lutSel := value }
  | _ => .next s

/-- Reset (R104): every piece of the spec's state at its reset value. The instance's parameters and the host's own lists of
accesses and answers are no state of the block and stay (log entry 13). -/
def State.resetBlock (s : State) : State :=
  { State.reset with params := s.params, requests := s.requests, answers := s.answers }

/-- Serve one access. -/
def serve (a : HostAccess) (s : State) : Result :=
  match a with
  | .write offset value => hostWrite offset value s
  | .read offset => .next { s with answers := s.answers ++ [s.hostRead offset] }
  | .reset => .next s.resetBlock

/-- Take the oldest access and serve it; with none waiting the engine is idle and holds all state (60_exceptions.md R103). -/
def serveNext (s : State) : Result :=
  match s.requests with
  | [] => .next s
  | a :: rest => serve a { s with requests := rest }

end Sys2Proof.Machine
end

