-- ==== Sys2Proof/Machine/Step.lean ====
section
/-! DEFINITION. One step of the machine: one access of the host, which for a CMD write runs the command it completes (00_scope.md R6; log entries 6 and 7). -/

namespace Sys2Proof.Machine

/-- One step: serve the oldest host access. -/
def step (s : State) : Host.Outcome State Fault Refusal := serveNext s

/-- `s` with the instruction whose bits are `w` placed where the next step takes it. -/
def State.withFetchWord (s : State) (nbits w : Nat) : State :=
  s.placeCommand (tableWords nbits w).1 (tableWords nbits w).2

end Sys2Proof.Machine
end

