-- ==== Sys2Proof/Machine/HostRun.lean ====
section
/-! DEFINITION. The host's side of a run: the pseudo-instructions (30_encoding.md R64), the decoding of a palette line (41_palette.md R68), the run (70_reset_and_hazards.md R106), its end and result (R107), the output file (20_memory.md R45), the exit code (00_scope.md R12) and the block's place in the host's address space (20_memory.md R51). No step of the machine uses this file (log entry 18). -/

namespace Sys2Proof.Machine

/-- `fileld #b0, …, #bn-1` (R64 a). -/
def pseudoFileld (bytes : List Byte) : List Instr := bytes.map Instr.fileWr

/-- `palette (#c0, i0), …` (R64 b): one `lutwr` with LEN 3 per pair. An index outside -2^31 .. 2^31-1 is taken modulo 2^32
(log entry 21, DESIGN CHOICE). -/
def pseudoPalette (entries : List (Rgb × Int)) : List Instr :=
  entries.map (fun e => .lutWr 3 e.1 (BitVec.ofInt 32 e.2))

/-- `convert` (R64 c). -/
def pseudoConvert : List Instr := [.hdr, .classify, .encode]

/-- `run MODE, FMT, PAL, FILEBYTES` (R64 d); PAL `default` is `none`. -/
def pseudoRun (mode : Mode) (fmt : Format) (pal : Option (List (Rgb × Int))) (file : List Byte) : List Instr :=
  .cfg fmt mode
    :: (match pal with
        | none => [.lutDef]
        | some entries => pseudoPalette entries)
    ++ pseudoFileld file ++ pseudoConvert

/-- The CMD writes that deliver a list of commands, in order (20_memory.md R47, R52). -/
def commandWrites (is : List Instr) : List HostAccess := (is.flatMap encode).map (HostAccess.write 0)

/-- A run, delivered to a state (R106). -/
def State.withRun (s : State) (is : List Instr) : State := { s with requests := s.requests ++ commandWrites is }

/-- The value of a hexadecimal digit, in either case (log entry 22, DESIGN CHOICE). -/
def hexDigit (c : Char) : Option Nat :=
  let n := c.toNat
  if 48 ≤ n ∧ n ≤ 57 then some (n - 48)
  else if 65 ≤ n ∧ n ≤ 70 then some (n - 55)
  else if 97 ≤ n ∧ n ≤ 102 then some (n - 87)
  else none

/-- The value of a string of hexadecimal digits; `none` if some character is not one. -/
def hexValue (cs : List Char) : Option Nat :=
  cs.foldl (fun acc c =>
    match acc, hexDigit c with
    | some n, some d => some (16 * n + d)
    | _, _ => none) (some 0)

/-- The LUT_WR a palette line with colour token `c` and index `d` becomes (R68). -/
def paletteLine (c : List Char) (d : Int) : Instr :=
  let len : Nat := if (hexValue c).isSome ∧ c.length % 2 = 0 then min (c.length / 2) 14 else 15
  let rgb : Nat := if len = 3 then (hexValue c).getD 0 else 0
  let idx : Int := if -2 ^ 31 ≤ d ∧ d ≤ 2 ^ 31 - 1 then d else -2 ^ 31
  .lutWr (BitVec.ofNat 4 len) (BitVec.ofNat 24 rgb) (BitVec.ofInt 32 idx)

/-- The result of a run (R107). -/
inductive RunResult where
  /-- PHASE = DONE: the output tokens and the warning flag. -/
  | success (output : List Token) (warnEmpty : Bool)
  /-- PHASE = FAULT: the code and the information words. -/
  | failure (code : FaultCode) (info : FaultInfo)
  deriving DecidableEq, Repr

/-- The result read in one state, where PHASE is DONE or FAULT (R107). -/
def State.shownResult (s : State) : Option RunResult :=
  match s.phase with
  | .done => some (.success ((List.range s.outLen.toNat).map s.outAt) s.warnEmpty)
  | .fault => some (.failure s.faultCode s.faultInfo)
  | .idle => none
  | .config => none
  | .lutDef => none
  | .hdrOk => none
  | .classified => none

/-- PHASE is DONE or FAULT (R107). -/
def State.ended (s : State) : Bool := s.phase == .done || s.phase == .fault

/-- The oldest access is a CMD write that completes a well-formed CFG, which starts a run (R106, 60_exceptions.md R96). -/
def State.startsRun (s : State) : Bool :=
  match s.requests with
  | .write offset w :: _ =>
    offset == 0 && !s.awaitOperand
      && (match decode [w] with
          | .ok (.cfg _ _, _) => true
          | _ => false)
  | _ => false

/-- The oldest access discards the run in progress: a CFG or a reset (60_exceptions.md R97). -/
def State.discardsRun (s : State) : Bool := s.startsRun || s.requests.head? == some .reset

/-- The first state from `s` on, within `n` accesses, in which PHASE is DONE or FAULT. None where the host stops before that
(R107), and none where a CFG or a reset discards the run before it (log entry 24, DEDUCED). -/
def State.endWithin : Nat → State → Option State
  | 0, s => if s.ended then some s else none
  | n + 1, s =>
    if s.ended then some s
    else if s.discardsRun then none
    else
      match step s with
      | .next t => t.endWithin n
      | .fault _ => none
      | .refused _ => none

/-- The end of the run that the oldest access of `s` starts (R107): the first state after that CFG in which PHASE is DONE or
FAULT, among those the waiting accesses lead to. What follows it in the queue is no part of the run. -/
def State.runEnd (s : State) : Option State :=
  if s.startsRun then
    match step s with
    | .next t => t.endWithin t.requests.length
    | .fault _ => none
    | .refused _ => none
  else none

/-- The result of the run that the oldest access of `s` starts, read at the run's end (R107). -/
def State.runResult (s : State) : Option RunResult := s.runEnd.bind State.shownResult

/-- What follows the label in a section's line (20_memory.md R43, R45). -/
def OutSection.suffix : OutSection → String
  | .main => ":"
  | .colors => "_colors:"
  | .color => "_color:"

/-- A `db` line of the bytes spelled so far; no line where there is none (R45). -/
def dbLine (bytes : List String) : List String :=
  if bytes.isEmpty then [] else ["        db " ++ String.intercalate "," bytes]

/-- The lines of the assembly output (R45): `label` is LABEL and `spell` is BYTE_SPELL; `line` holds the spelled bytes of the
`db` line begun. Only a ROWBREAK or a SECTION ends a `db` line, so outside the raw modes all bytes of a section stand on one
(log entry 20, DESIGN CHOICE: the spec gives no number of bytes per line). -/
def asmLines (label : String) (spell : Byte → String) : List Token → List String → List String
  | [], line => dbLine line
  | .data b :: ts, line => asmLines label spell ts (line ++ [spell b])
  | .rowBreak :: ts, line => dbLine line ++ asmLines label spell ts []
  | .sect k :: ts, line => dbLine line ++ (label ++ k.suffix) :: asmLines label spell ts []

/-- The bytes of a SIF output file: the DATA values in order (R45). -/
def sifFile (ts : List Token) : List Byte :=
  ts.flatMap (fun t =>
    match t with
    | .data b => [b]
    | .rowBreak => []
    | .sect _ => [])

/-- A value of `EXIT_CODE`: a nonzero integer (00_scope.md R12). -/
abbrev ExitCode := { n : Int // n ≠ 0 }

/-- The exit code for a result, under the host's mapping `EXIT_CODE` and the mode (00_scope.md R12). -/
def RunResult.exitStatus (exitCode : Mode → FaultCode → ExitCode) (mode : Mode) : RunResult → Int
  | .success _ _ => 0
  | .failure code _ => (exitCode mode code).val

/-- The exit code of the host's process for the run that the oldest access of `s` starts (R12, 70_reset_and_hazards.md R106): of
the result and the mode at the run's end, none where the run has no end. -/
def State.exitStatus (exitCode : Mode → FaultCode → ExitCode) (s : State) : Option Int :=
  s.runEnd.bind (fun t => t.shownResult.map (RunResult.exitStatus exitCode t.mode))

/-- An access of the host to its own address space (20_memory.md R51). -/
inductive BusAccess where
  /-- A 32-bit write of `value` at an address. -/
  | write (address : Nat) (value : Word)
  /-- A 32-bit read at an address. -/
  | read (address : Nat)
  deriving DecidableEq, Repr

/-- The address of the host register at an offset, for a block that stands at `ppleBase`, the parameter PPLE_BASE (R46, R51). -/
def registerAddress (ppleBase : Nat) (offset : Word) : Nat := ppleBase + offset.toNat

/-- The offset in the block of a host address, none where the address is not the block's. Every address from PPLE_BASE on that
a 32-bit offset reaches is the block's (log entry 19, DESIGN CHOICE: the spec gives the block no extent). -/
def blockOffset (ppleBase address : Nat) : Option Word :=
  if ppleBase ≤ address ∧ address < ppleBase + 2 ^ 32 then some (BitVec.ofNat 32 (address - ppleBase)) else none

/-- The access the block sees of an access of the host, none where it goes elsewhere (R51). -/
def BusAccess.toBlock (ppleBase : Nat) (a : BusAccess) : Option HostAccess :=
  match a with
  | .write address value => (blockOffset ppleBase address).map (fun offset => .write offset value)
  | .read address => (blockOffset ppleBase address).map .read

/-- Accesses of the host to its address space, delivered to a block at PPLE_BASE (R51, R52). -/
def State.withBus (s : State) (ppleBase : Nat) (accesses : List BusAccess) : State :=
  { s with requests := s.requests ++ accesses.filterMap (BusAccess.toBlock ppleBase) }

end Sys2Proof.Machine
end

