-- ==== Sys2Proof/Safety.lean ====
section
/-! DEFINITION. What counts as a sound state of the block (the invariants), and the terms the statements use: the visible output, the pixels by row and column, the sprite pixels in visiting order, and the colour conditions of the encoders' rules. -/

namespace Sys2Proof.Machine

/-- The four spaces are in canonical form. -/
def State.MemoryOk (s : State) : Prop := s.mem.wf = true

/-- Every listed cell and every length lies inside its space (20_memory.md R39, 10_state.md R32, R35). -/
structure State.SpacesOk (s : State) : Prop where
  file : Store.below s.params.fileMax.toNat s.mem.file = true
  idx : Store.below s.params.idxMax.toNat s.mem.idx = true
  out : Store.below s.params.outMax.toNat s.mem.out = true
  lut : Store.below s.params.lutDepth.toNat s.mem.lut = true
  lutCount : s.lutCount.toNat ≤ s.params.lutDepth.toNat
  fileLen : s.fileLen.toNat ≤ s.params.fileMax.toNat
  idxLen : s.idxLen.toNat ≤ s.params.idxMax.toNat
  outLen : s.outLen.toNat ≤ s.params.outMax.toNat

/-- PHASE against the fault registers, the output flags and the latch (10_state.md R28, R30, R31, R33; 60_exceptions.md R95,
R96). -/
structure State.PhaseOk (s : State) : Prop where
  faulted : s.phase = .fault ↔ s.faultCode ≠ .none
  noInfo : s.faultCode = .none → s.faultInfo = ⟨0, 0, 0, 0⟩
  valid : s.outValid = true ↔ s.phase = .done
  noOutput : s.phase ≠ .done → s.outLen = 0
  latched : s.awaitOperand = true → opcodeOf s.pending = 2

/-- The header registers, FILE_LEN and IDX_LEN against PHASE (10_state.md R34, R35; 42_image_input.md R72, R73). -/
structure State.ImageOk (s : State) : Prop where
  noHeader : s.phase = .idle ∨ s.phase = .config ∨ s.phase = .lutDef → s.dataOff = 0 ∧ s.width = 0 ∧ s.height = 0
  dims : s.phase = .hdrOk ∨ s.phase = .classified ∨ s.phase = .done →
    dimsOk s.mode s.imageW s.signedHeight = true ∧ s.pixelCount ≤ s.params.idxMax.toNat ∧ 26 ≤ s.fileLen.toNat
  noIndices : s.phase = .idle ∨ s.phase = .config ∨ s.phase = .lutDef ∨ s.phase = .hdrOk → s.idxLen = 0
  indices : s.phase = .classified ∨ s.phase = .done → s.idxLen.toNat = s.pixelCount
  indicesOrNone : s.idxLen = 0 ∨ s.idxLen.toNat = s.pixelCount

/-- The valid LUT entries are legal for the mode and the valid IDX entries are such indices or the fallback 0 (10_state.md R32,
20_memory.md R42, 43_classify.md R78). -/
structure State.IndexOk (s : State) : Prop where
  lut : ∀ k < s.lutCount.toNat, s.mode.legalIdx (s.lutAt k).idx = true
  idx : ∀ i < s.idxLen.toNat, s.mode.legalIdx (s.idxAt i) = true ∨ (s.mode = .screen0 ∧ s.idxAt i = 0)

/-- WARN_EMPTY is set only after an ENCODE of a SPRITE1 image with FMT = ASM (10_state.md R30, 60_exceptions.md R100). -/
def State.WarnOk (s : State) : Prop :=
  s.warnEmpty = true → s.mode = .sprite1 ∧ s.fmt = .asm ∧ (s.phase = .done ∨ s.phase = .fault)

/-- The whole invariant of the block. -/
structure State.Inv (s : State) : Prop where
  memory : s.MemoryOk
  spaces : s.SpacesOk
  phase : s.PhaseOk
  image : s.ImageOk
  index : s.IndexOk
  warn : s.WarnOk

/-- The visible output: `OUT[0 .. OUT_LEN-1]` (70_reset_and_hazards.md R107). -/
def State.output (s : State) : List Token := (List.range s.outLen.toNat).map s.outAt

/-- `ix(r, c) = IDX[r*W + c]` (44_encode_tiles.md). -/
def State.pixel (s : State) (r c : Nat) : Nibble := s.idxAt (r * s.imageW + c)

/-- Four FILE bytes from `a` up as a little-endian integer (20_memory.md R48 (a)). -/
def State.headerValue (s : State) (a : Nat) : Nat :=
  (s.fileAt a).toNat + 2 ^ 8 * (s.fileAt (a + 1)).toNat + 2 ^ 16 * (s.fileAt (a + 2)).toNat
    + 2 ^ 24 * (s.fileAt (a + 3)).toNat

/-- The state after HDR has read its three fields, before its checks (42_image_input.md R73). -/
def State.withHeader (s : State) (dataOff width height : Nat) : State :=
  { s with
    dataOff := BitVec.ofNat 32 dataOff
    width := BitVec.ofNat 32 width
    height := BitVec.ofNat 32 height }

/-- R76's `off = prow(i div W) * stride(W) + 3 * (i mod W)`, with R74's `stride` and R75's `prow` written out; apart from the
machine's own `State.pixelOffset`, so that the statements say what that must be. -/
def State.pixelStart (s : State) (i : Nat) : Nat :=
  let w := s.width.toNat
  let h := s.height.toInt
  let prow := if 0 < h then h.natAbs - 1 - i / w else i / w
  prow * (3 * w + (4 - (w * 3) % 4) % 4) + 3 * (i % w)

/-- The three bytes of pixel `i` exist in the raw buffer: `off + 2 < RAW_LEN` with R41's `RAW_LEN = max(0, FILE_LEN -
DATA_OFF)` (43_classify.md R76). -/
def State.PixelPresent (s : State) (i : Nat) : Prop :=
  (s.pixelStart i : Int) + 2 < max 0 ((s.fileLen.toNat : Int) - s.dataOff.toNat)

/-- The colour of pixel `i` as R76 assembles it: `R << 16 | G << 8 | B`, with B the first byte, where R41's `RAW[p]` is
`FILE[DATA_OFF + p]`. -/
def State.pixelColor (s : State) (i : Nat) : Rgb :=
  let at' := s.dataOff.toNat + s.pixelStart i
  BitVec.ofNat 24
    ((s.fileAt (at' + 2)).toNat * 65536 + (s.fileAt (at' + 1)).toNat * 256 + (s.fileAt at').toNat)

/-- Pixel `i` has an index: its colour is in the table, or the mode is the fallback mode (43_classify.md R77). -/
def State.PixelMapped (s : State) (i : Nat) : Prop :=
  (∃ k < s.lutCount.toNat, (s.lutAt k).rgb = s.pixelColor i) ∨ s.mode = .screen0

/-- ENCODE may run: the phase, the format and the mode, and an image HDR accepts that fits IDX (42_image_input.md R72,
70_reset_and_hazards.md R105). The memory is in canonical form. -/
def State.EncodeReady (s : State) (fmt : Format) (mode : Mode) : Prop :=
  s.phase = .classified ∧ s.fmt = fmt ∧ s.mode = mode
    ∧ dimsOk mode s.imageW s.signedHeight = true ∧ s.pixelCount ≤ s.params.idxMax.toNat ∧ s.MemoryOk

/-- ENCODE answers a next state in which the visible output is `ts`, OUT_VALID is 1, PHASE is DONE, WARN_EMPTY is set if
`warn`, and nothing else but OUT has changed (44_encode_tiles.md R79, 20_memory.md R44). -/
def State.EncodesTo (s : State) (ts : List Token) (warn : Bool) : Prop :=
  ∃ t, exec .encode s = .next t ∧ t.output = ts
    ∧ t = { s with outLen := t.outLen, outValid := true, phase := .done, warnEmpty := s.warnEmpty || warn,
                   mem := { s.mem with out := t.mem.out } }

/-- Row `r` of an 8-column image has at most two distinct indices (44_encode_tiles.md R82). -/
def State.TwoColorRow (s : State) (r : Nat) : Prop :=
  ∃ a b, ∀ c < 8, s.pixel r c = a ∨ s.pixel r c = b

/-- The sprite pixel visited `p`-th: block `p / 64`, row `p mod 64 / 8`, column `p mod 8` (46_encode_sprites.md R88). -/
def State.visited (s : State) (p : Nat) : Nibble :=
  s.idxAt ((p / 64) % 2 * 128 + (p / 64) / 2 * 8 + p % 64 / 8 * s.imageW + p % 8)

/-- The number of block rows of a sprite: 8 for 8x8, 32 for 16x16 (R88). -/
def State.blockRowCount (s : State) : Nat := 8 * (s.imageW / 8 * (s.imageH / 8))

/-- `bytes` are the shape bytes of a sprite: one per block row, bit `7 - k` set iff pixel `k` is non-zero (R88). -/
def State.IsShape (s : State) (bytes : List Byte) : Prop :=
  bytes.length = s.blockRowCount
    ∧ ∀ q < s.blockRowCount, ∀ k < 8, (bytes.getD q 0).getLsbD (7 - k) = decide (s.visited (8 * q + k) ≠ 0)

/-- Every pixel visited before the `p`-th is 0 or `g`, and some is `g` (46_encode_sprites.md R89). -/
def State.OneColorBefore (s : State) (from' p : Nat) (g : Nibble) : Prop :=
  g ≠ 0 ∧ (∀ q, from' ≤ q → q < p → s.visited q = 0 ∨ s.visited q = g) ∧ ∃ q, from' ≤ q ∧ q < p ∧ s.visited q = g

/-- `c` is the colour byte of block row `q`: its one non-zero index, or 0 where it has none (46_encode_sprites.md R90). -/
def State.IsLineColor (s : State) (q : Nat) (c : Nibble) : Prop :=
  (∀ k < 8, s.visited (8 * q + k) = 0 ∨ s.visited (8 * q + k) = c) ∧ (c ≠ 0 → ∃ k < 8, s.visited (8 * q + k) = c)

/-- One row of `W` samples packed two to a byte, the last padded with 0 (45_encode_raw.md R85, R86; 47_encode_sif.md R93). -/
def State.pairedRow (s : State) (r : Nat) : List Byte :=
  (List.range ((s.imageW + 1) / 2)).map (fun q =>
    (s.pixel r (2 * q) ++ (if 2 * q + 1 < s.imageW then s.pixel r (2 * q + 1) else 0#4) : BitVec (4 + 4)))

/-- The low two bits of sample `c` of row `r`, 0 past the row's end (45_encode_raw.md R87). -/
def State.pairOfBits (s : State) (r c : Nat) : BitVec 2 :=
  if c < s.imageW then (s.pixel r c).setWidth 2 else 0

/-- One row of `W` samples packed four to a byte, the last padded with 0 (R85, R87). -/
def State.quadRow (s : State) (r : Nat) : List Byte :=
  (List.range ((s.imageW + 3) / 4)).map (fun q =>
    (s.pairOfBits r (4 * q) ++ s.pairOfBits r (4 * q + 1) ++ s.pairOfBits r (4 * q + 2) ++ s.pairOfBits r (4 * q + 3)
      : BitVec (2 + 2 + 2 + 2)))

/-- The seven header bytes of a SIF file, as R92's numbers: "S", "I", "F", two little-endian 16-bit fields. -/
def State.sifHeaderBytes (s : State) : List Byte :=
  let we := s.imageW + s.imageW % 2
  [0x53, 0x49, 0x46, BitVec.ofNat 8 we, BitVec.ofNat 8 (we / 256), BitVec.ofNat 8 s.imageH,
    BitVec.ofNat 8 (s.imageH / 256)]

/-- A CMD write at the head of the host's accesses that completes a well-formed CFG: no operand awaited, and the word is one
that decodes to CFG (60_exceptions.md R96). -/
def State.CfgArrives (s : State) : Prop :=
  s.awaitOperand = false ∧ ∃ fmt mode rest,
    s.requests = .write 0 (Instr.firstWord (.cfg fmt mode)) :: rest

/-- A reset at the head of the host's accesses (70_reset_and_hazards.md R104). -/
def State.ResetArrives (s : State) : Prop := ∃ rest, s.requests = .reset :: rest

end Sys2Proof.Machine
end

