-- ==== Sys2Proof/Certificates/Slice0/Obligations.lean ====
section
/-! DEFINITION. The statements for the provers, from the numbered rules of spec/. -/

open Sys2Proof Sys2Proof.Machine

/-! ## Encoding -/

/-- Sample words of every opcode, written out from R57's formats, decode to the commands they stand for. -/
def Obligations.DecodeSampleWords : Prop :=
  decode [0x0ABCDEF0] = .ok (.nop 0xABCDEF0, [])
    ∧ decode [0x10000015] = .ok (.cfg .sif .screen6, [])
    ∧ decode [0x23123456, 0xFFFFFFFF] = .ok (.lutWr 3 0x123456 0xFFFFFFFF, [])
    ∧ decode [0x23123456] = .error .needsOperand
    ∧ decode [0x30000000] = .ok (.lutDef, [])
    ∧ decode [0x400000AB] = .ok (.fileWr 0xAB, [])
    ∧ decode [0x50000000] = .ok (.hdr, [])
    ∧ decode [0x60000000] = .ok (.classify, [])
    ∧ decode [0x70000000] = .ok (.encode, [])
    ∧ decode [0x10000009] = .ok (.illegal 0x10000009, [])
    ∧ decode [0x10000020] = .ok (.illegal 0x10000020, [])
    ∧ decode [0x60000001] = .ok (.illegal 0x60000001, [])
    ∧ decode [0x80000000] = .ok (.illegal 0x80000000, [])

/-- Decode and encode agree: decoding the words of a well-formed command, with any words after them, gives it back. -/
def Obligations.EncodeDecodeRoundTrip : Prop :=
  ∀ (i : Instr) (rest : List Word), i.wf = true → decode (encode i ++ rest) = .ok (i, rest)

/-- The other direction: every complete command is well-formed and its words are the ones it was decoded from. -/
def Obligations.DecodedCommandReencodes : Prop :=
  ∀ w w1 : Word,
    (decodeCommand w w1).wf = true
      ∧ encode (decodeCommand w w1) = if w.toNat / 2 ^ 28 = 2 then [w, w1] else [w]

/-- R61: the illegal encodings by their bits, the IllegalCommand they raise, and the hint words. -/
def Obligations.IllegalAndHintEncodings : Prop :=
  (∀ w : Word,
    (w.toNat / 2 ^ 28 ≠ 2 → (decode [w] = .ok (.illegal w, []) ↔
      8 ≤ w.toNat / 2 ^ 28
        ∨ (w.toNat / 2 ^ 28 = 1 ∧ (w.toNat % 2 ^ 28 / 2 ^ 5 ≠ 0 ∨ 8 ≤ w.toNat % 2 ^ 4))
        ∨ ((w.toNat / 2 ^ 28 = 3 ∨ w.toNat / 2 ^ 28 = 5 ∨ w.toNat / 2 ^ 28 = 6 ∨ w.toNat / 2 ^ 28 = 7)
            ∧ w.toNat % 2 ^ 28 ≠ 0)
        ∨ (w.toNat / 2 ^ 28 = 4 ∧ w.toNat % 2 ^ 28 / 2 ^ 8 ≠ 0)))
    ∧ (w.toNat ≤ 0x0FFFFFFF → decode [w] = .ok (.nop (w.setWidth 28), [])))
  ∧ (∀ (w : Word) (s : State), s.phase ≠ .fault →
      exec (.illegal w) s = .next (s.raise { code := .illegalCommand, a := w }))
  ∧ (∀ (hint : BitVec 28) (s : State), exec (.nop hint) s = .next s)

/-- R59's match and mask rows select exactly the words the decoder gives their mnemonics, CFG with MODE at most 7. -/
def Obligations.MatchMaskRowsSelect : Prop :=
  ∀ w w1 : Word, ∀ row ∈ opcodeRows,
    (decodeCommand w w1).mnemonic = row.mnemonic ↔
      w &&& row.mask = row.pattern ∧ (row.mnemonic = "CFG" → w.toNat % 16 ≤ 7)

/-! ## The command port and the host's registers -/

/-- R47: a CMD write with no operand awaited that holds a whole command is one step, and the step is `exec` of it at the state
with the access taken off. -/
def Obligations.StepRunsDecodedCommand : Prop :=
  ∀ (s : State) (w : Word) (rest : List HostAccess) (i : Instr),
    s.requests = .write 0 w :: rest → s.awaitOperand = false → decode [w] = .ok (i, []) →
      step s = exec i { s with requests := rest }

/-- R56: a word with OPC other than 2 is a whole command; the first word of a LUT_WR is latched, in every phase, and the next
word of any value is its second word, run or discarded as that LUT_WR; while no word comes the engine keeps waiting. That the hidden latch keeps its contents when its valid bit clears is the
model's (log entry 12, DEDUCED). -/
def Obligations.LutWrWordsPair : Prop :=
  (∀ (s : State) (w : Word) (rest : List HostAccess),
    s.requests = .write 0 w :: rest → s.awaitOperand = false → w.toNat / 2 ^ 28 ≠ 2 →
      ∃ i, decode [w] = .ok (i, []) ∧ step s = exec i { s with requests := rest })
  ∧ (∀ (s : State) (w : Word) (rest : List HostAccess),
    s.requests = .write 0 w :: rest → s.awaitOperand = false → w.toNat / 2 ^ 28 = 2 →
      step s = .next { s with requests := rest, pending := w, awaitOperand := true })
  ∧ (∀ (s : State) (w : Word) (rest : List HostAccess),
    s.requests = .write 0 w :: rest → s.awaitOperand = true →
      step s = exec (.lutWr (BitVec.ofNat 4 (s.pending.toNat / 2 ^ 24)) (BitVec.ofNat 24 s.pending.toNat) w)
        { s with requests := rest, awaitOperand := false })
  ∧ (∀ (s : State) (rest : List HostAccess) (w : Word),
    s.requests = .write 0 w :: rest → s.awaitOperand = true → s.phase = .fault →
      step s = .next { s with requests := rest, awaitOperand := false })
  ∧ (∀ (s : State) (a : HostAccess) (rest : List HostAccess) (t : State),
    s.requests = a :: rest → a ≠ .reset → (∀ w, a ≠ .write 0 w) → s.awaitOperand = true → step s = .next t →
      t.awaitOperand = true ∧ s.statusWord.getLsbD 5 = true)

/-- The instruction placed by `withFetchWord` is the one the next step runs (the model's own; log entry 7). -/
def Obligations.PlacedCommandRuns : Prop :=
  ∀ (s : State) (nbits w : Nat) (i : Instr), decodeTableWord nbits w = some i →
    ∃ p, step (s.withFetchWord nbits w) = exec i { s with awaitOperand := false, pending := p }
      ∧ (p = s.pending ∨ p = i.firstWord)

/-- R46: the register map as the host reads it, and that a read changes nothing. -/
def Obligations.HostReadMap : Prop :=
  (∀ s : State,
    s.hostRead 0x00 = 0 ∧ s.hostRead 0x04 = s.statusWord ∧ s.hostRead 0x08 = s.cfgWord
      ∧ s.hostRead 0x0C = s.faultInfo.fi0 ∧ s.hostRead 0x10 = s.faultInfo.fi1
      ∧ s.hostRead 0x14 = s.faultInfo.fi2 ∧ s.hostRead 0x18 = s.faultInfo.fi3
      ∧ s.hostRead 0x1C = s.dataOff ∧ s.hostRead 0x20 = s.width ∧ s.hostRead 0x24 = s.height
      ∧ s.hostRead 0x28 = s.lutCount ∧ s.hostRead 0x2C = s.fileLen ∧ s.hostRead 0x30 = s.idxLen
      ∧ s.hostRead 0x34 = s.outLen ∧ s.hostRead 0x38 = s.outSel ∧ s.hostRead 0x40 = s.idxSel
      ∧ s.hostRead 0x48 = s.lutSel
      ∧ s.hostRead 0x3C =
          (if s.outSel.toNat < s.outLen.toNat then (s.outAt s.outSel.toNat).bits.setWidth 32 else 0)
      ∧ s.hostRead 0x44 =
          (if s.idxSel.toNat < s.idxLen.toNat then (s.idxAt s.idxSel.toNat).setWidth 32 else 0)
      ∧ s.hostRead 0x4C =
          (if s.lutSel.toNat < s.lutCount.toNat then
            (s.lutAt s.lutSel.toNat).idx.setWidth 32 <<< 24 ||| (s.lutAt s.lutSel.toNat).rgb.setWidth 32
          else 0))
  ∧ (∀ (s : State) (off : Word), 0x50 ≤ off.toNat ∨ off.toNat % 4 ≠ 0 → s.hostRead off = 0)
  ∧ (∀ (s : State) (off : Word) (rest : List HostAccess), s.requests = .read off :: rest →
      step s = .next { s with requests := rest, answers := s.answers ++ [s.hostRead off] })

/-- R46, R36: what a host write other than to CMD does. -/
def Obligations.HostWriteEffects : Prop :=
  ∀ (s : State) (off v : Word) (rest : List HostAccess), s.requests = .write off v :: rest → off ≠ 0 →
    step s = .next
      { s with
        requests := rest
        outSel := if off = 0x38 then v else s.outSel
        idxSel := if off = 0x40 then v else s.idxSel
        lutSel := if off = 0x48 then v else s.lutSel }

/-- R29 and R24: the fields of STATUS and of CFG, the reserved bits reading 0; with the numbers of the phases (R28), the fault
codes (R94), the modes (R25) and the formats (R26). -/
def Obligations.StatusAndCfgLayout : Prop :=
  (∀ p : Phase, p.code.toNat =
    match p with
    | .idle => 0 | .config => 1 | .lutDef => 2 | .hdrOk => 3 | .classified => 4 | .done => 5 | .fault => 7)
  ∧ (∀ c : FaultCode, c.code.toNat =
    match c with
    | .none => 0 | .invalidPaletteEntry => 1 | .invalidPaletteIndex => 2 | .invalidDimensions => 3 | .unmappedColor => 4
    | .tooManyColorsPerLine => 5 | .multipleSpriteColors => 6 | .multipleColorsPerLine => 7 | .illegalCommand => 8
    | .sequenceError => 9 | .capacityExceeded => 10 | .truncatedHeader => 11 | .outOfRange => 12 | .layoutOpen => 13)
  ∧ (∀ m : Mode, m.bits.toNat =
    match m with
    | .screen0 => 0 | .screen1 => 1 | .tile2lc => 2 | .screen3 => 3 | .screen5 => 4 | .screen6 => 5 | .sprite1 => 6
    | .spritelc => 7)
  ∧ Format.asm.bit = 0 ∧ Format.sif.bit = 1
  ∧ ∀ s : State,
    s.statusWord.extractLsb' 0 3 = s.phase.code
      ∧ s.statusWord.getLsbD 3 = s.outValid ∧ s.statusWord.getLsbD 4 = s.warnEmpty
      ∧ s.statusWord.getLsbD 5 = s.awaitOperand ∧ s.statusWord.extractLsb' 6 2 = 0
      ∧ s.statusWord.extractLsb' 8 8 = s.faultCode.code ∧ s.statusWord.extractLsb' 16 16 = 0
      ∧ s.cfgWord.extractLsb' 0 4 = s.mode.bits ∧ s.cfgWord.extractLsb' 4 1 = s.fmt.bit
      ∧ s.cfgWord.extractLsb' 5 27 = 0

/-- R43: the ten bits of a token. -/
def Obligations.TokenBits : Prop :=
  (∀ b : Byte, (Token.data b).bits.toNat = b.toNat)
    ∧ Token.rowBreak.bits = 0x100
    ∧ (Token.sect .main).bits = 0x200 ∧ (Token.sect .colors).bits = 0x201 ∧ (Token.sect .color).bits = 0x202
    ∧ (∀ t : Token, t.bits.toNat / 256 < 3)

/-- R38: the values reset leaves, as the host sees them. The contents of the memories and of the latch, which R38 leaves
unspecified, are not stated. -/
def Obligations.ResetValues : Prop :=
  State.reset.mode = .screen0 ∧ State.reset.fmt = .asm ∧ State.reset.phase = .idle
    ∧ State.reset.outValid = false ∧ State.reset.warnEmpty = false ∧ State.reset.awaitOperand = false
    ∧ State.reset.faultCode = .none ∧ State.reset.faultInfo = ⟨0, 0, 0, 0⟩ ∧ State.reset.lutCount = 0
    ∧ State.reset.dataOff = 0 ∧ State.reset.width = 0 ∧ State.reset.height = 0
    ∧ State.reset.fileLen = 0 ∧ State.reset.idxLen = 0 ∧ State.reset.outLen = 0
    ∧ State.reset.lutSel = 0 ∧ State.reset.idxSel = 0 ∧ State.reset.outSel = 0
    ∧ ∀ off : Word, State.reset.hostRead off = 0

/-- R104: a reset between two host accesses gives, whatever went before, a block that answers every host read as the block
after reset does; the accesses still to come stay. -/
def Obligations.ResetRequestRestores : Prop :=
  ∀ (s : State) (rest : List HostAccess), s.requests = .reset :: rest →
    ∃ t, step s = .next t ∧ t.requests = rest ∧ t.params = s.params ∧ t.phase = .idle ∧ t.mode = .screen0
      ∧ t.fmt = .asm ∧ t.awaitOperand = false ∧ t.lutCount = 0 ∧ t.fileLen = 0 ∧ t.idxLen = 0 ∧ t.outLen = 0
      ∧ ∀ off : Word, t.hostRead off = 0

/-! ## Faults and sequencing -/

/-- R95: fault entry, all of it; and a command that enters phase FAULT does nothing else, but for the header registers HDR has
read and the WARN_EMPTY an ENCODE has set before it (R79). That a CLASSIFY that faults writes no IDX entry is R95's and R50's
precise fault as the model reads it against R78's loop (log entry 9, DESIGN CHOICE). -/
def Obligations.FaultEntryEffect : Prop :=
  (∀ (s : State) (t : Trap),
    s.raise t =
      { s with faultCode := t.code, faultInfo := ⟨t.a, t.b, t.c, t.d⟩, outLen := 0, outValid := false, phase := .fault })
  ∧ (∀ (i : Instr) (s t : State), exec i s = .next t → s.phase ≠ .fault → t.phase = .fault →
      ∃ f : Trap, t = s.raise f
        ∨ (i = .hdr ∧ t = (s.withHeader (s.headerValue 10) (s.headerValue 18) (s.headerValue 22)).raise f)
        ∨ (i = .encode ∧ t = { s with warnEmpty := true }.raise f))

/-- R96: in phase FAULT every complete command but a well-formed CFG is ignored, a malformed CFG too; a well-formed CFG starts
a new run; a LUT_WR's first word is latched and the word after it discarded, even a well-formed CFG. That the hidden latch
keeps its contents when its valid bit clears is the model's (log entry 12, DEDUCED). -/
def Obligations.FaultPhaseIgnores : Prop :=
  ∀ s : State, s.phase = .fault →
    (∀ i : Instr, (∀ fmt mode, i ≠ .cfg fmt mode) → exec i s = .next s)
      ∧ (∀ (w : Word) (rest : List HostAccess), s.requests = .write 0 w :: rest →
          (s.awaitOperand = true → step s = .next { s with requests := rest, awaitOperand := false })
          ∧ (s.awaitOperand = false → w.toNat / 2 ^ 28 = 2 →
              step s = .next { s with requests := rest, pending := w, awaitOperand := true })
          ∧ (s.awaitOperand = false → w.toNat / 2 ^ 28 ≠ 2 →
              ¬ (w &&& 0xFFFFFFE0 = 0x10000000 ∧ w.toNat % 16 ≤ 7) → step s = .next { s with requests := rest })
          ∧ (s.awaitOperand = false → w &&& 0xFFFFFFE0 = 0x10000000 ∧ w.toNat % 16 ≤ 7 →
              ∃ fmt mode, fmt.bit = w.extractLsb' 4 1 ∧ mode.bits = w.extractLsb' 0 4
                ∧ step s = .next
                  { s with
                    requests := rest, mode := mode, fmt := fmt, lutCount := 0, fileLen := 0, dataOff := 0, width := 0,
                    height := 0, idxLen := 0, outLen := 0, outValid := false, warnEmpty := false, faultCode := .none,
                    faultInfo := ⟨0, 0, 0, 0⟩, phase := .config }))

/-- R105: a command its phase does not accept raises SequenceError with its first word and the phase, LUT_DEF also with a
non-empty LUT; and the phase each command that does not fault leads to. -/
def Obligations.SequencingByPhase : Prop :=
  (∀ s : State, s.phase ≠ .fault →
    let err := fun (i : Instr) =>
      exec i s = .next (s.raise { code := .sequenceError, a := i.firstWord, b := s.phase.code.setWidth 32 })
    (s.phase ≠ .config → ∀ len rgb w1, err (.lutWr len rgb w1))
      ∧ (s.phase ≠ .config ∨ s.lutCount ≠ 0 → err .lutDef)
      ∧ (s.phase ≠ .config ∧ s.phase ≠ .lutDef → (∀ b, err (.fileWr b)) ∧ err .hdr)
      ∧ (s.phase ≠ .hdrOk → err .classify)
      ∧ (s.phase ≠ .classified → err .encode))
  ∧ (∀ (i : Instr) (s t : State), exec i s = .next t → t.phase ≠ .fault →
      match i with
      | .nop _ => t.phase = s.phase
      | .cfg _ _ => t.phase = .config
      | .lutWr _ _ _ => s.phase = .config ∧ t.phase = .config
      | .lutDef => s.phase = .config ∧ s.lutCount = 0 ∧ t.phase = .lutDef
      | .fileWr _ => (s.phase = .config ∨ s.phase = .lutDef) ∧ t.phase = s.phase
      | .hdr => (s.phase = .config ∨ s.phase = .lutDef) ∧ t.phase = .hdrOk
      | .classify => s.phase = .hdrOk ∧ t.phase = .classified
      | .encode => s.phase = .classified ∧ t.phase = .done
      | .illegal _ => False)

/-! ## Control -/

/-- R65: NOP changes nothing in any phase, whatever the hint; the words that are NOP; with an operand awaited a NOP word is
that operand. That the hidden latch keeps its contents when its valid bit clears is the model's (log entry 12, DEDUCED). -/
def Obligations.NopLeavesStateUnchanged : Prop :=
  (∀ (hint : BitVec 28) (s : State), exec (.nop hint) s = .next s)
    ∧ (∀ w : Word, w &&& 0xF0000000 = 0x00000000 ↔ ∃ hint, decode [w] = .ok (.nop hint, []))
    ∧ (∀ (s : State) (hint : BitVec 28) (rest : List HostAccess),
        s.requests = .write 0 (Instr.firstWord (.nop hint)) :: rest → s.awaitOperand = true →
          step s = exec (lutWrOf s.pending (Instr.firstWord (.nop hint)))
            { s with requests := rest, awaitOperand := false })

/-- R66: CFG starts a new run in every phase; all else (selectors, memory contents) keeps its value. A malformed CFG word is an
illegal word: it raises IllegalCommand outside phase FAULT and is ignored in it. -/
def Obligations.CfgStartsRun : Prop :=
  (∀ (fmt : Format) (mode : Mode) (s : State),
    exec (.cfg fmt mode) s =
      .next
        { s with
          mode := mode, fmt := fmt, lutCount := 0, fileLen := 0, dataOff := 0, width := 0, height := 0, idxLen := 0,
          outLen := 0, outValid := false, warnEmpty := false, faultCode := .none, faultInfo := ⟨0, 0, 0, 0⟩,
          phase := .config })
  ∧ (∀ (fmt : Format) (mode : Mode) (w : Word),
      decode [w] = .ok (.cfg fmt mode, []) ↔
        w &&& 0xFFFFFFE0 = 0x10000000 ∧ fmt.bit = w.extractLsb' 4 1 ∧ mode.bits = w.extractLsb' 0 4)
  ∧ (∀ (w : Word) (s : State) (rest : List HostAccess), s.requests = .write 0 w :: rest → s.awaitOperand = false →
      w.toNat / 2 ^ 28 = 1 → w.toNat % 2 ^ 28 / 2 ^ 5 ≠ 0 ∨ 8 ≤ w.toNat % 2 ^ 4 →
        (s.phase = .fault → step s = .next { s with requests := rest })
        ∧ (s.phase ≠ .fault →
          step s = .next ({ s with requests := rest }.raise { code := .illegalCommand, a := w })))

/-- R60, R99: an illegal word raises IllegalCommand in every phase but FAULT, sequencing or not, and nothing but fault entry
happens. -/
def Obligations.IllegalWordRaises : Prop :=
  ∀ (w : Word) (s : State), s.phase ≠ .fault →
    ∃ t, exec (.illegal w) s = .next t ∧ t.faultCode = .illegalCommand ∧ t.faultInfo = ⟨w, 0, 0, 0⟩
      ∧ t.phase = .fault
      ∧ t = { s with faultCode := t.faultCode, faultInfo := t.faultInfo, outLen := 0, outValid := false, phase := .fault }

/-! ## Palette -/

/-- R67: the legal indices of every mode, each in 0..15. -/
def Obligations.LegalIndices : Prop :=
  ∀ (m : Mode) (v : Int),
    (m.legal v = true ↔
      match m with
      | .screen0 => v = 1
      | .screen1 => v = 0 ∨ v = 1
      | .screen6 => 0 ≤ v ∧ v ≤ 3
      | _ => 0 ≤ v ∧ v ≤ 15)
    ∧ (m.legal v = true → 0 ≤ v ∧ v ≤ 15)

/-- R69: LUT_WR outside phase CONFIG raises SequenceError (phase FAULT, where it is ignored, apart); then every case of phase
CONFIG in its order, and for the accepted entry where it stands, that its index is the operand's value, that every other entry
keeps its value and that nothing else changes; and which bits its operands are. -/
def Obligations.LutWrAppendsEntry : Prop :=
  ∀ (len : BitVec 4) (rgb : Rgb) (w1 : Word) (s : State),
    (s.phase ≠ .config → s.phase ≠ .fault →
      exec (.lutWr len rgb w1) s = .next (s.raise
        { code := .sequenceError, a := Instr.firstWord (.lutWr len rgb w1), b := s.phase.code.setWidth 32 }))
    ∧ (s.phase = .config → len ≠ 3 →
      exec (.lutWr len rgb w1) s =
        .next (s.raise { code := .invalidPaletteEntry, a := s.lutCount, b := len.setWidth 32 }))
    ∧ (s.phase = .config → len = 3 → s.mode.legal w1.toInt = false →
      exec (.lutWr len rgb w1) s =
        .next (s.raise { code := .invalidPaletteIndex, a := s.lutCount, b := w1, c := s.mode.bits.setWidth 32 }))
    ∧ (s.phase = .config → len = 3 → s.mode.legal w1.toInt = true → s.lutCount = s.params.lutDepth →
      exec (.lutWr len rgb w1) s =
        .next (s.raise
          { code := .capacityExceeded, a := 0, b := BitVec.ofNat 32 (min (s.lutCount.toNat + 1) (2 ^ 32 - 1)) }))
    ∧ (s.phase = .config → len = 3 → s.mode.legal w1.toInt = true →
        s.lutCount.toNat < s.params.lutDepth.toNat → s.MemoryOk →
      ∃ t, exec (.lutWr len rgb w1) s = .next t
        ∧ t.lutCount.toNat = s.lutCount.toNat + 1
        ∧ (t.lutAt s.lutCount.toNat).rgb = rgb ∧ ((t.lutAt s.lutCount.toNat).idx.toNat : Int) = w1.toInt
        ∧ (∀ k, k ≠ s.lutCount.toNat → t.lutAt k = s.lutAt k)
        ∧ t = { s with lutCount := t.lutCount, mem := { s.mem with lut := t.mem.lut } })
    ∧ (∀ w : Word, w &&& 0xF0000000 = 0x20000000 →
      decode [w, w1] = .ok (.lutWr (BitVec.ofNat 4 (w.toNat / 2 ^ 24)) (BitVec.ofNat 24 w.toNat) w1, []))

/-- R70, R10: LUT_DEF outside phase CONFIG or with a non-empty LUT raises SequenceError (phase FAULT apart); in phase CONFIG with
an empty LUT it loads the mode's default table and nothing else changes; under tables R7 or R10 do not allow the model refuses
(log entry 5, the model's choice of place); which tables those are; and its one word. -/
def Obligations.LutDefLoadsTable : Prop :=
  ∀ s : State,
    (s.phase ≠ .fault → s.phase ≠ .config ∨ s.lutCount ≠ 0 →
      exec .lutDef s = .next (s.raise
        { code := .sequenceError, a := 0x30000000, b := s.phase.code.setWidth 32 }))
    ∧ (s.phase = .config → s.lutCount = 0 → s.params.tablesOk = true → s.MemoryOk →
      ∃ t, exec .lutDef s = .next t
        ∧ t.table = s.params.defaultTables[s.params.defaultSelect[s.mode.index]]
        ∧ t.lutCount.toNat = t.table.length ∧ t.phase = .lutDef
        ∧ (∀ e ∈ t.table, s.mode.legal e.idx.toNat = true)
        ∧ (∀ k, t.table.length ≤ k → t.lutAt k = s.lutAt k)
        ∧ t = { s with lutCount := t.lutCount, phase := .lutDef, mem := { s.mem with lut := t.mem.lut } })
    ∧ (s.phase = .config → s.lutCount = 0 → s.params.tablesOk = false → exec .lutDef s = .refused .illFormedConfiguration)
    ∧ (∀ m : Mode, (m.index : Nat) = m.bits.toNat)
    ∧ (s.params.tablesOk = true ↔
      (∀ k : Fin 6, s.params.defaultTables[k].length ≤ s.params.lutDepth.toNat)
        ∧ (∀ m : Mode, ∀ e ∈ s.params.defaultTables[s.params.defaultSelect[m.index]], m.legal e.idx.toNat = true)
        ∧ ∃ pre e post, s.params.defaultTables[s.params.defaultSelect[Mode.screen0.index]] = pre ++ e :: post
          ∧ (∀ x ∈ pre, x.rgb ≠ 0xFFFFFF) ∧ e.rgb = 0xFFFFFF ∧ e.idx = 1)
    ∧ (∀ w : Word, w &&& 0xF0000000 = 0x30000000 →
      decode [w] = .ok (if w = 0x30000000 then .lutDef else .illegal w, []))

/-! ## Image input -/

/-- R71: FILE_WR outside phases CONFIG and LUTDEF raises SequenceError (phase FAULT apart); in them: the full FILE, else the byte
at FILE_LEN, every other byte and everything else unchanged; and its words. -/
def Obligations.FileWrAppendsByte : Prop :=
  ∀ (b : Byte) (s : State),
    (s.phase ≠ .config → s.phase ≠ .lutDef → s.phase ≠ .fault →
      exec (.fileWr b) s = .next (s.raise
        { code := .sequenceError, a := Instr.firstWord (.fileWr b), b := s.phase.code.setWidth 32 }))
    ∧ (s.phase = .config ∨ s.phase = .lutDef → s.fileLen = s.params.fileMax →
      exec (.fileWr b) s =
        .next (s.raise
          { code := .capacityExceeded, a := 1, b := BitVec.ofNat 32 (min (s.fileLen.toNat + 1) (2 ^ 32 - 1)) }))
    ∧ (s.phase = .config ∨ s.phase = .lutDef → s.fileLen.toNat < s.params.fileMax.toNat → s.MemoryOk →
      ∃ t, exec (.fileWr b) s = .next t
        ∧ t.fileLen.toNat = s.fileLen.toNat + 1 ∧ t.fileAt s.fileLen.toNat = b
        ∧ (∀ a, a ≠ s.fileLen.toNat → t.fileAt a = s.fileAt a)
        ∧ t = { s with fileLen := t.fileLen, mem := { s.mem with file := t.mem.file } })
    ∧ (∀ w : Word, w &&& 0xF0000000 = 0x40000000 →
      decode [w] = .ok (if w &&& 0x0FFFFF00 = 0 then .fileWr (BitVec.ofNat 8 w.toNat) else .illegal w, []))

/-- R72: the dimension check of every mode. -/
def Obligations.DimensionCheck : Prop :=
  ∀ (m : Mode) (w : Nat) (h : Int),
    dimsOk m w h = true ↔
      match m with
      | .screen0 => w = 6 ∧ h.natAbs = 8
      | .screen1 | .tile2lc | .screen3 => w = 8 ∧ h.natAbs = 8
      | .screen5 | .screen6 => 1 ≤ w ∧ 1 ≤ h.natAbs ∧ h ≠ -2 ^ 31
      | .sprite1 | .spritelc => (w = 8 ∧ h.natAbs = 8) ∨ (w = 16 ∧ h.natAbs = 16)

/-- R73: HDR outside phases CONFIG and LUTDEF raises SequenceError (phase FAULT apart); in them, every case in its order, the
header registers keeping what was read when a check on them fails; and its one word. -/
def Obligations.HdrTakesHeader : Prop :=
  ∀ s : State,
    (s.phase ≠ .config → s.phase ≠ .lutDef → s.phase ≠ .fault →
      exec .hdr s = .next (s.raise { code := .sequenceError, a := 0x50000000, b := s.phase.code.setWidth 32 }))
    ∧ (s.phase = .config ∨ s.phase = .lutDef →
    let t := s.withHeader (s.headerValue 10) (s.headerValue 18) (s.headerValue 22)
    (s.fileLen.toNat < 26 → exec .hdr s = .next (s.raise { code := .truncatedHeader, a := s.fileLen }))
    ∧ (26 ≤ s.fileLen.toNat → s.fileLen.toNat ≤ s.params.fileMax.toNat →
      (dimsOk s.mode t.width.toNat t.height.toInt = false →
        exec .hdr s = .next (t.raise
          { code := .invalidDimensions, a := t.width, b := t.height, c := 0, d := s.mode.bits.setWidth 32 }))
      ∧ (dimsOk s.mode t.width.toNat t.height.toInt = true →
          s.params.idxMax.toNat < t.width.toNat * t.height.toInt.natAbs →
        exec .hdr s = .next (t.raise
          { code := .capacityExceeded, a := 2,
            b := BitVec.ofNat 32 (min (t.width.toNat * t.height.toInt.natAbs) (2 ^ 32 - 1)) }))
      ∧ (dimsOk s.mode t.width.toNat t.height.toInt = true →
          t.width.toNat * t.height.toInt.natAbs ≤ s.params.idxMax.toNat →
        exec .hdr s = .next { t with phase := .hdrOk })))
    ∧ (∀ w : Word, w &&& 0xF0000000 = 0x50000000 →
      decode [w] = .ok (if w = 0x50000000 then .hdr else .illegal w, []))

/-! ## Classifier -/

/-- R74: padding and stride by the formulas, and the padding of every residue of the width, the source's checks for 5, 4 and 6
among them (R74's own list of values exchanges residues 1 and 3; log entry 10). -/
def Obligations.RowPaddingAndStride : Prop :=
  ∀ w : Nat,
    rowPad w = (4 - (w * 3) % 4) % 4 ∧ rowStride w = 3 * w + rowPad w
      ∧ rowStride w % 4 = 0 ∧ rowStride w < 3 * w + 4
      ∧ (w % 4 = 0 → rowPad w = 0) ∧ (w % 4 = 1 → rowPad w = 1)
      ∧ (w % 4 = 2 → rowPad w = 2) ∧ (w % 4 = 3 → rowPad w = 3)

/-- R75: the physical row of a logical row, a permutation of the rows. -/
def Obligations.RowOrientation : Prop :=
  (∀ (h : Int) (r : Nat), 0 < h → physicalRow h r = h.natAbs - 1 - r)
    ∧ (∀ (h : Int) (r : Nat), h < 0 → physicalRow h r = r)
    ∧ (∀ (h : Int) (r r' : Nat), r < h.natAbs → r' < h.natAbs →
        physicalRow h r < h.natAbs ∧ (physicalRow h r = physicalRow h r' → r = r'))

/-- R77: the first entry with the colour wins; without one, SCREEN0 gives 0 and every other mode UnmappedColor. -/
def Obligations.LookupFirstMatch : Prop :=
  ∀ (s : State) (rgb : Rgb) (i : Nat), i < 2 ^ 32 →
    (∀ k < s.lutCount.toNat, (s.lutAt k).rgb = rgb → (∀ j < k, (s.lutAt j).rgb ≠ rgb) →
      s.lookupPixel rgb i = .ok (s.lutAt k).idx)
    ∧ ((∀ k < s.lutCount.toNat, (s.lutAt k).rgb ≠ rgb) →
      (s.mode = .screen0 → s.lookupPixel rgb i = .ok 0)
      ∧ (s.mode ≠ .screen0 →
        s.lookupPixel rgb i =
          .error { code := .unmappedColor, a := rgb.setWidth 32, b := BitVec.ofNat 32 i }))

/-- R78 with R41, R74 to R77: where every pixel is present and mapped, CLASSIFY stores for each the index of the first entry
with its colour, 0 where there is none; nothing else changes. The pixel's offset and bytes are the formulas of Safety.lean
(`pixelStart`, `PixelPresent`, `pixelColor`), not the machine's own. -/
def Obligations.ClassifyBuildsIndices : Prop :=
  ∀ s : State, s.phase = .hdrOk → s.SpacesOk → s.MemoryOk → s.pixelCount ≤ s.params.idxMax.toNat →
    (∀ i < s.pixelCount, s.PixelPresent i ∧ s.PixelMapped i) →
      ∃ t, exec .classify s = .next t ∧ t.phase = .classified ∧ t.idxLen.toNat = s.pixelCount
        ∧ (∀ i < s.pixelCount,
            (∀ k < s.lutCount.toNat, (s.lutAt k).rgb = s.pixelColor i → (∀ j < k, (s.lutAt j).rgb ≠ s.pixelColor i) →
              t.idxAt i = (s.lutAt k).idx)
            ∧ ((∀ k < s.lutCount.toNat, (s.lutAt k).rgb ≠ s.pixelColor i) → t.idxAt i = 0))
        ∧ (∀ i, s.pixelCount ≤ i → t.idxAt i = s.idxAt i)
        ∧ t = { s with idxLen := t.idxLen, phase := .classified, mem := { s.mem with idx := t.mem.idx } }

/-- R78, R99: the fault CLASSIFY reports is that of the lowest pixel that has one, a missing byte before a missing colour. The
pixel's offset is R76's formula (`pixelStart` of Safety.lean). That no IDX entry is written by a CLASSIFY that faults is R95's
and R50's precise fault as the model reads it against R78's loop (log entry 9, DESIGN CHOICE). -/
def Obligations.ClassifyReportsLowestPixel : Prop :=
  ∀ (s : State) (i : Nat), s.phase = .hdrOk → s.SpacesOk → s.pixelCount ≤ s.params.idxMax.toNat → i < s.pixelCount →
    (∀ j < i, s.PixelPresent j ∧ s.PixelMapped j) →
      (¬ s.PixelPresent i →
        exec .classify s = .next (s.raise
          { code := .outOfRange, a := 0, b := BitVec.ofNat 32 i,
            c := BitVec.ofNat 32 (min (s.pixelStart i + 2) (2 ^ 32 - 1)) }))
      ∧ (s.PixelPresent i → ¬ s.PixelMapped i →
        exec .classify s = .next (s.raise
          { code := .unmappedColor, a := (s.pixelColor i).setWidth 32, b := BitVec.ofNat 32 i }))

/-! ## Tile encoders -/

/-- R81: ENCODE in SCREEN0 and SCREEN1 gives MAIN and one byte per row, bit `7 - c` the index of column `c`, the bits of no
column 0. -/
def Obligations.EncodeTile1 : Prop :=
  ∀ (s : State) (mode : Mode), mode = .screen0 ∨ mode = .screen1 → s.EncodeReady .asm mode →
    (∀ i < s.pixelCount, s.idxAt i = 0 ∨ s.idxAt i = 1) → 9 ≤ s.params.outMax.toNat →
      ∃ bytes : List Byte, s.EncodesTo (.sect .main :: bytes.map Token.data) false ∧ bytes.length = 8
        ∧ ∀ r < 8, ∀ c < 8,
            (bytes.getD r 0).getLsbD (7 - c) = (decide (c < s.imageW) && decide (s.pixel r c = 1))

/-- R82: ENCODE in TILE2LC where every row has at most two indices: the bitmap marks the pixels that differ from the row's
first, the colour byte holds the second index in the high nibble (0 without one) and the first in the low. -/
def Obligations.EncodeTile2 : Prop :=
  ∀ s : State, s.EncodeReady .asm .tile2lc → (∀ r < 8, s.TwoColorRow r) → 18 ≤ s.params.outMax.toNat →
    ∃ bitmap colour : List Byte,
      s.EncodesTo (.sect .main :: bitmap.map Token.data ++ .sect .colors :: colour.map Token.data) false
        ∧ bitmap.length = 8 ∧ colour.length = 8
        ∧ ∀ r < 8,
            (∀ c < 8, (bitmap.getD r 0).getLsbD (7 - c) = decide (s.pixel r c ≠ s.pixel r 0))
            ∧ (colour.getD r 0).extractLsb' 0 4 = s.pixel r 0
            ∧ (∀ c < 8, s.pixel r c ≠ s.pixel r 0 → (colour.getD r 0).extractLsb' 4 4 = s.pixel r c)
            ∧ ((∀ c < 8, s.pixel r c = s.pixel r 0) → (colour.getD r 0).extractLsb' 4 4 = 0)

/-- R82, R80: a third index in a row raises TooManyColorsPerLine at the first pixel, in row-major order, that is one. -/
def Obligations.Tile2ThirdColorFaults : Prop :=
  ∀ (s : State) (r c : Nat), s.EncodeReady .asm .tile2lc → r < 8 → c < 8 →
    (∀ r' < r, s.TwoColorRow r') →
    (∃ a b, a ≠ b ∧ (∀ c' < c, s.pixel r c' = a ∨ s.pixel r c' = b) ∧ (∃ c' < c, s.pixel r c' = a)
      ∧ (∃ c' < c, s.pixel r c' = b) ∧ s.pixel r c ≠ a ∧ s.pixel r c ≠ b) →
      exec .encode s = .next (s.raise
        { code := .tooManyColorsPerLine, a := BitVec.ofNat 32 r, b := BitVec.ofNat 32 c,
          c := (s.pixel r c).setWidth 32 })

/-- R83: a row of at most two indices is packed, and the inverse of TILE2's packing recovers it, for any index sequence. -/
def Obligations.Tile2RoundTrip : Prop :=
  ∀ (ix : Nat → Nibble) (w r : Nat), (∃ a b, ∀ c < 8, ix (r * w + c) = a ∨ ix (r * w + c) = b) →
    ∃ bitmap colour : Byte, tile2Row ix w r = .ok (bitmap, colour)
      ∧ ∀ c < 8, ix (r * w + c) =
          if bitmap.getLsbD (7 - c) = true then colour.extractLsb' 4 4 else colour.extractLsb' 0 4

/-- R84: ENCODE in SCREEN3 gives MAIN and two bytes of the samples at IDX offsets 0, 4, 32, 36. -/
def Obligations.EncodePlane : Prop :=
  ∀ s : State, s.EncodeReady .asm .screen3 → 3 ≤ s.params.outMax.toNat →
    s.EncodesTo
      [ .sect .main,
        .data (BitVec.ofNat 8 ((s.idxAt 0).toNat * 16 + (s.idxAt 4).toNat)),
        .data (BitVec.ofNat 8 ((s.idxAt 32).toNat * 16 + (s.idxAt 36).toNat)) ]
      false

/-! ## Raw encoders -/

/-- R85, R86: ENCODE in SCREEN5 gives MAIN and, row by row, the row's samples two to a byte and a ROWBREAK. -/
def Obligations.EncodeRaw4 : Prop :=
  ∀ s : State, s.EncodeReady .asm .screen5 →
    1 + s.imageH * ((s.imageW + 1) / 2 + 1) ≤ s.params.outMax.toNat →
      s.EncodesTo
        (.sect .main :: (List.range s.imageH).flatMap (fun r => (s.pairedRow r).map Token.data ++ [.rowBreak])) false

/-- R85, R87: ENCODE in SCREEN6, with samples of two bits, gives MAIN and, row by row, the row's samples four to a byte and a
ROWBREAK. -/
def Obligations.EncodeRaw2 : Prop :=
  ∀ s : State, s.EncodeReady .asm .screen6 → (∀ i < s.pixelCount, (s.idxAt i).toNat ≤ 3) →
    1 + s.imageH * ((s.imageW + 3) / 4 + 1) ≤ s.params.outMax.toNat →
      s.EncodesTo
        (.sect .main :: (List.range s.imageH).flatMap (fun r => (s.quadRow r).map Token.data ++ [.rowBreak])) false

/-! ## Sprite encoders -/

/-- R88, R89, R100: ENCODE in SPRITE1 of a sprite with one non-zero index gives MAIN, the shape, COLOR and the index; of one
with none, MAIN and the shape, and WARN_EMPTY. -/
def Obligations.EncodeSpriteSingle : Prop :=
  ∀ s : State, s.EncodeReady .asm .sprite1 → 3 + s.blockRowCount ≤ s.params.outMax.toNat →
    (∀ g, s.OneColorBefore 0 (8 * s.blockRowCount) g →
      ∃ shape, s.IsShape shape
        ∧ s.EncodesTo (.sect .main :: shape.map Token.data ++ [.sect .color, .data (g.setWidth 8)]) false)
    ∧ ((∀ p < 8 * s.blockRowCount, s.visited p = 0) →
      ∃ shape, s.IsShape shape ∧ s.EncodesTo (.sect .main :: shape.map Token.data) true)

/-- R89, R80: the first pixel, in visiting order, whose non-zero index is not the sprite's raises MultipleSpriteColors. -/
def Obligations.SpriteSecondColorFaults : Prop :=
  ∀ (s : State) (p : Nat) (g : Nibble), s.EncodeReady .asm .sprite1 → p < 8 * s.blockRowCount →
    s.OneColorBefore 0 p g → s.visited p ≠ 0 → s.visited p ≠ g →
      exec .encode s = .next (s.raise
        { code := .multipleSpriteColors, a := BitVec.ofNat 32 (p / 64), b := BitVec.ofNat 32 (p % 64 / 8),
          c := BitVec.ofNat 32 (p % 8), d := BitVec.ofNat 32 (g.toNat * 16 + (s.visited p).toNat) })

/-- R90: ENCODE in SPRITELC of an 8x8 sprite whose rows have one colour each gives MAIN, the shape, COLORS and the colours. -/
def Obligations.EncodeSpriteLine : Prop :=
  ∀ (s : State) (colors : List Nibble), s.EncodeReady .asm .spritelc → s.imageW = 8 → 18 ≤ s.params.outMax.toNat →
    colors.length = 8 → (∀ q < 8, s.IsLineColor q (colors.getD q 0)) →
      ∃ shape, s.IsShape shape
        ∧ s.EncodesTo
            (.sect .main :: shape.map Token.data ++ .sect .colors :: colors.map (fun c => Token.data (c.setWidth 8))) false

/-- R90, R80: the first pixel, in visiting order, whose non-zero index is not its block row's raises MultipleColorsPerLine. -/
def Obligations.LineSecondColorFaults : Prop :=
  ∀ (s : State) (q k : Nat) (c : Nibble), s.EncodeReady .asm .spritelc → q < s.blockRowCount → k < 8 →
    (∀ q' < q, ∃ c', s.IsLineColor q' c') → s.OneColorBefore (8 * q) (8 * q + k) c →
    s.visited (8 * q + k) ≠ 0 → s.visited (8 * q + k) ≠ c →
      exec .encode s = .next (s.raise
        { code := .multipleColorsPerLine, a := BitVec.ofNat 32 (q / 8), b := BitVec.ofNat 32 (q % 8),
          c := BitVec.ofNat 32 k, d := BitVec.ofNat 32 (c.toNat * 16 + (s.visited (8 * q + k)).toNat) })

/-- R91: a 16x16 SPRITELC sprite that passes the row checks raises LayoutOpen(16, 16) under the default SPRITELC_POST and where
a replacement refuses, and gives the shape and the replacement's bytes where it answers them. That the words are 16 and 16 for a
top-down sprite too is R91's line on faults and D26, against its pseudocode (log entry 23, DEDUCED); the replacement's form is
log entry 4. -/
def Obligations.LineSpritePost : Prop :=
  ∀ (s : State) (colors : List Nibble), s.EncodeReady .asm .spritelc → s.imageW = 16 →
    colors.length = 32 → (∀ q < 32, s.IsLineColor q (colors.getD q 0)) →
      (s.params.spritePost = none →
        exec .encode s = .next (s.raise { code := .layoutOpen, a := 16, b := 16 }))
      ∧ (∀ graph, s.params.spritePost = some graph →
        ((∀ p ∈ graph, p.1 ≠ colors) →
          exec .encode s = .next (s.raise { code := .layoutOpen, a := 16, b := 16 }))
        ∧ (∀ bytes pre post, graph = pre ++ (colors, bytes) :: post → (∀ p ∈ pre, p.1 ≠ colors) →
            34 + bytes.length ≤ s.params.outMax.toNat →
          ∃ shape, s.IsShape shape
            ∧ s.EncodesTo (.sect .main :: shape.map Token.data ++ .sect .colors :: bytes.map Token.data) false))

/-! ## SIF -/

/-- R92, R93: with FMT = SIF, in every mode, an image of width at least 2 whose header fields fit gives the seven header bytes
and, row by row, the row's samples two to a byte. -/
def Obligations.EncodeSif : Prop :=
  ∀ (s : State) (mode : Mode), s.EncodeReady .sif mode → 2 ≤ s.imageW →
    s.imageW + s.imageW % 2 ≤ 0xFFFF → s.imageH ≤ 0xFFFF →
    7 + s.imageH * ((s.imageW + 1) / 2) ≤ s.params.outMax.toNat →
      s.EncodesTo ((s.sifHeaderBytes ++ (List.range s.imageH).flatMap s.pairedRow).map Token.data) false

/-- R93: a SIF image one pixel wide: the first two samples share a byte, every later sample has its own; a 1x1 image raises
OutOfRange. -/
def Obligations.EncodeSifOneColumn : Prop :=
  ∀ (s : State) (mode : Mode), s.EncodeReady .sif mode → s.imageW = 1 → s.imageH ≤ 0xFFFF →
    (2 ≤ s.imageH → 6 + s.imageH ≤ s.params.outMax.toNat →
      s.EncodesTo
        ((s.sifHeaderBytes ++ BitVec.ofNat 8 ((s.idxAt 0).toNat * 16 + (s.idxAt 1).toNat)
          :: (List.range (s.imageH - 2)).map (fun i => BitVec.ofNat 8 ((s.idxAt (i + 2)).toNat * 16))).map Token.data) false)
    ∧ (s.imageH = 1 → exec .encode s = .next (s.raise { code := .outOfRange, a := 1, b := 0, c := 1 }))

/-- R92: a width or height the 16-bit header fields cannot hold raises InvalidDimensions with 1 in FAULT_INFO[2]. -/
def Obligations.SifHeaderTooLarge : Prop :=
  ∀ (s : State) (mode : Mode), s.EncodeReady .sif mode →
    0xFFFF < s.imageW + s.imageW % 2 ∨ 0xFFFF < s.imageH →
      exec .encode s = .next (s.raise
        { code := .invalidDimensions, a := s.width, b := s.height, c := 1, d := mode.bits.setWidth 32 })

/-- R44: an encoder that ends without a fault but gives more than OUT_MAX tokens raises CapacityExceeded(3, len); a warning
given before stays. -/
def Obligations.EncodeOutputTooLong : Prop :=
  ∀ (s : State) (fmt : Format) (mode : Mode) (e : Encoded), s.EncodeReady fmt mode → s.encoded = .ok e →
    s.params.outMax.toNat < e.tokens.length →
      exec .encode s = .next
        ({ s with warnEmpty := s.warnEmpty || e.warnEmpty }.raise
          { code := .capacityExceeded, a := 3, b := BitVec.ofNat 32 (min e.tokens.length (2 ^ 32 - 1)) })

/-! ## Invariants -/

/-- The state after reset meets the whole invariant. -/
def Obligations.ResetMeetsInvariant : Prop := State.reset.Inv

/-- Every step keeps the canonical form of the four memory spaces. -/
def Obligations.StepKeepsMemoryForm : Prop :=
  ∀ s t : State, s.MemoryOk → step s = .next t → t.MemoryOk

/-- Every step keeps all cells and lengths inside their spaces. -/
def Obligations.StepKeepsSpaces : Prop :=
  ∀ s t : State, s.SpacesOk → step s = .next t → t.SpacesOk

/-- Every step keeps PHASE, the fault registers, the output flags and the latch in agreement. -/
def Obligations.StepKeepsPhaseAgreement : Prop :=
  ∀ s t : State, s.PhaseOk → step s = .next t → t.PhaseOk

/-- Every step keeps the header registers and IDX_LEN in agreement with PHASE: in CLASSIFIED and DONE,
`IDX_LEN = WIDTH*abs(HEIGHT)`. -/
def Obligations.StepKeepsImageAgreement : Prop :=
  ∀ s t : State, s.ImageOk → step s = .next t → t.ImageOk

/-- Every step keeps the valid LUT entries legal for the mode and the valid indices legal or the fallback. -/
def Obligations.StepKeepsIndexLegality : Prop :=
  ∀ s t : State, s.MemoryOk → s.IndexOk → step s = .next t → t.IndexOk

/-- Every step keeps WARN_EMPTY a mark of an encoded SPRITE1 image. -/
def Obligations.StepKeepsWarning : Prop :=
  ∀ s t : State, s.WarnOk → step s = .next t → t.WarnOk

/-! ## Whole-machine rules -/

/-- R110: from a state that meets the invariant, under default tables R10 allows, every step answers a next state: the engine
is never stuck. -/
def Obligations.StepNeverStops : Prop :=
  ∀ s : State, s.Inv → s.params.tablesOk = true → ∃ t, step s = .next t

/-- Which commands write which registers (R24, R32, R34, R35, R36, R30): every register not named for a command keeps its
value, in a fault entry too. -/
def Obligations.RegistersWrittenOnlyByTheirCommands : Prop :=
  ∀ (i : Instr) (s t : State), exec i s = .next t →
    t.params = s.params ∧ t.requests = s.requests ∧ t.answers = s.answers
      ∧ t.awaitOperand = s.awaitOperand ∧ t.pending = s.pending
      ∧ t.lutSel = s.lutSel ∧ t.idxSel = s.idxSel ∧ t.outSel = s.outSel
      ∧ ((∀ fmt mode, i ≠ .cfg fmt mode) →
          t.mode = s.mode ∧ t.fmt = s.fmt
          ∧ ((∀ len rgb w1, i ≠ .lutWr len rgb w1) → i ≠ .lutDef → t.lutCount = s.lutCount)
          ∧ ((∀ b, i ≠ .fileWr b) → t.fileLen = s.fileLen)
          ∧ (i ≠ .hdr → t.dataOff = s.dataOff ∧ t.width = s.width ∧ t.height = s.height)
          ∧ (i ≠ .classify → t.idxLen = s.idxLen)
          ∧ (i ≠ .encode → t.warnEmpty = s.warnEmpty ∧ (t.outLen = s.outLen ∨ t.outLen = 0)))

/-- Which commands write which memory (R39, R40, R32): every other command leaves every cell of it as it was, in a fault entry
too, and CFG erases nothing. -/
def Obligations.MemoriesWrittenOnlyByTheirCommands : Prop :=
  ∀ (i : Instr) (s t : State), exec i s = .next t →
    ((∀ b, i ≠ .fileWr b) → ∀ a, t.fileAt a = s.fileAt a)
      ∧ (i ≠ .classify → ∀ a, t.idxAt a = s.idxAt a)
      ∧ (i ≠ .encode → ∀ a, t.outAt a = s.outAt a)
      ∧ ((∀ len rgb w1, i ≠ .lutWr len rgb w1) → i ≠ .lutDef → ∀ a, t.lutAt a = s.lutAt a)

/-- R95, R98: where a command enters phase FAULT, nothing but fault entry's fields has changed, save HDR's three header
registers and ENCODE's WARN_EMPTY. That a CLASSIFY that faults writes no IDX entry is R95's and R50's precise fault as the model
reads it against R78's loop (log entry 9, DESIGN CHOICE). -/
def Obligations.FaultingCommandFrame : Prop :=
  ∀ (i : Instr) (s t : State), exec i s = .next t → s.phase ≠ .fault → t.phase = .fault →
    t.faultCode ≠ .none ∧ t.outLen = 0 ∧ t.outValid = false
      ∧ t = { s with
          faultCode := t.faultCode, faultInfo := t.faultInfo, outLen := 0, outValid := false, phase := .fault,
          dataOff := t.dataOff, width := t.width, height := t.height, warnEmpty := t.warnEmpty }
      ∧ (i ≠ .hdr → t.dataOff = s.dataOff ∧ t.width = s.width ∧ t.height = s.height)
      ∧ (i ≠ .encode → t.warnEmpty = s.warnEmpty)

/-- R97: a step leaves phase FAULT only where a well-formed CFG or a reset arrives. -/
def Obligations.OnlyCfgOrResetLeavesFault : Prop :=
  ∀ s t : State, s.phase = .fault → step s = .next t → t.phase ≠ .fault → s.CfgArrives ∨ s.ResetArrives

/-- R30: OUT_VALID becomes 1 only by an ENCODE that ends in phase DONE, from phase CLASSIFIED. -/
def Obligations.OutValidOnlyByEncode : Prop :=
  ∀ (i : Instr) (s t : State), exec i s = .next t → s.outValid = false → t.outValid = true →
    i = .encode ∧ s.phase = .classified ∧ t.phase = .done
end

