-- ==== Sys2Proof/Laws/State.lean ====
section
/-! SUPPORT. What each named update of the state does to each field: one lemma per field, true by unfolding, so that no later proof unfolds a record update. -/

namespace Sys2Proof.Machine

/-! ### `State.raise`: fault entry (R95) -/

@[simp] theorem State.raise_params (t : Trap) (s : State) : (s.raise t).params = s.params := rfl
@[simp] theorem State.raise_requests (t : Trap) (s : State) : (s.raise t).requests = s.requests := rfl
@[simp] theorem State.raise_answers (t : Trap) (s : State) : (s.raise t).answers = s.answers := rfl
@[simp] theorem State.raise_mode (t : Trap) (s : State) : (s.raise t).mode = s.mode := rfl
@[simp] theorem State.raise_fmt (t : Trap) (s : State) : (s.raise t).fmt = s.fmt := rfl
@[simp] theorem State.raise_phase (t : Trap) (s : State) : (s.raise t).phase = .fault := rfl
@[simp] theorem State.raise_outValid (t : Trap) (s : State) : (s.raise t).outValid = false := rfl
@[simp] theorem State.raise_warnEmpty (t : Trap) (s : State) : (s.raise t).warnEmpty = s.warnEmpty := rfl
@[simp] theorem State.raise_awaitOperand (t : Trap) (s : State) : (s.raise t).awaitOperand = s.awaitOperand := rfl
@[simp] theorem State.raise_pending (t : Trap) (s : State) : (s.raise t).pending = s.pending := rfl
@[simp] theorem State.raise_faultCode (t : Trap) (s : State) : (s.raise t).faultCode = t.code := rfl
@[simp] theorem State.raise_faultInfo (t : Trap) (s : State) : (s.raise t).faultInfo = ⟨t.a, t.b, t.c, t.d⟩ := rfl
@[simp] theorem State.raise_lutCount (t : Trap) (s : State) : (s.raise t).lutCount = s.lutCount := rfl
@[simp] theorem State.raise_dataOff (t : Trap) (s : State) : (s.raise t).dataOff = s.dataOff := rfl
@[simp] theorem State.raise_width (t : Trap) (s : State) : (s.raise t).width = s.width := rfl
@[simp] theorem State.raise_height (t : Trap) (s : State) : (s.raise t).height = s.height := rfl
@[simp] theorem State.raise_fileLen (t : Trap) (s : State) : (s.raise t).fileLen = s.fileLen := rfl
@[simp] theorem State.raise_idxLen (t : Trap) (s : State) : (s.raise t).idxLen = s.idxLen := rfl
@[simp] theorem State.raise_outLen (t : Trap) (s : State) : (s.raise t).outLen = 0 := rfl
@[simp] theorem State.raise_lutSel (t : Trap) (s : State) : (s.raise t).lutSel = s.lutSel := rfl
@[simp] theorem State.raise_idxSel (t : Trap) (s : State) : (s.raise t).idxSel = s.idxSel := rfl
@[simp] theorem State.raise_outSel (t : Trap) (s : State) : (s.raise t).outSel = s.outSel := rfl
@[simp] theorem State.raise_mem (t : Trap) (s : State) : (s.raise t).mem = s.mem := rfl

/-! ### `State.newRun`: the start of a run (R66) -/

@[simp] theorem State.newRun_params (f : Format) (m : Mode) (s : State) : (s.newRun f m).params = s.params := rfl
@[simp] theorem State.newRun_requests (f : Format) (m : Mode) (s : State) : (s.newRun f m).requests = s.requests := rfl
@[simp] theorem State.newRun_answers (f : Format) (m : Mode) (s : State) : (s.newRun f m).answers = s.answers := rfl
@[simp] theorem State.newRun_mode (f : Format) (m : Mode) (s : State) : (s.newRun f m).mode = m := rfl
@[simp] theorem State.newRun_fmt (f : Format) (m : Mode) (s : State) : (s.newRun f m).fmt = f := rfl
@[simp] theorem State.newRun_phase (f : Format) (m : Mode) (s : State) : (s.newRun f m).phase = .config := rfl
@[simp] theorem State.newRun_outValid (f : Format) (m : Mode) (s : State) : (s.newRun f m).outValid = false := rfl
@[simp] theorem State.newRun_warnEmpty (f : Format) (m : Mode) (s : State) : (s.newRun f m).warnEmpty = false := rfl
@[simp] theorem State.newRun_awaitOperand (f : Format) (m : Mode) (s : State) : (s.newRun f m).awaitOperand = s.awaitOperand := rfl
@[simp] theorem State.newRun_pending (f : Format) (m : Mode) (s : State) : (s.newRun f m).pending = s.pending := rfl
@[simp] theorem State.newRun_faultCode (f : Format) (m : Mode) (s : State) : (s.newRun f m).faultCode = .none := rfl
@[simp] theorem State.newRun_faultInfo (f : Format) (m : Mode) (s : State) : (s.newRun f m).faultInfo = ⟨0, 0, 0, 0⟩ := rfl
@[simp] theorem State.newRun_lutCount (f : Format) (m : Mode) (s : State) : (s.newRun f m).lutCount = 0 := rfl
@[simp] theorem State.newRun_dataOff (f : Format) (m : Mode) (s : State) : (s.newRun f m).dataOff = 0 := rfl
@[simp] theorem State.newRun_width (f : Format) (m : Mode) (s : State) : (s.newRun f m).width = 0 := rfl
@[simp] theorem State.newRun_height (f : Format) (m : Mode) (s : State) : (s.newRun f m).height = 0 := rfl
@[simp] theorem State.newRun_fileLen (f : Format) (m : Mode) (s : State) : (s.newRun f m).fileLen = 0 := rfl
@[simp] theorem State.newRun_idxLen (f : Format) (m : Mode) (s : State) : (s.newRun f m).idxLen = 0 := rfl
@[simp] theorem State.newRun_outLen (f : Format) (m : Mode) (s : State) : (s.newRun f m).outLen = 0 := rfl
@[simp] theorem State.newRun_lutSel (f : Format) (m : Mode) (s : State) : (s.newRun f m).lutSel = s.lutSel := rfl
@[simp] theorem State.newRun_idxSel (f : Format) (m : Mode) (s : State) : (s.newRun f m).idxSel = s.idxSel := rfl
@[simp] theorem State.newRun_outSel (f : Format) (m : Mode) (s : State) : (s.newRun f m).outSel = s.outSel := rfl
@[simp] theorem State.newRun_mem (f : Format) (m : Mode) (s : State) : (s.newRun f m).mem = s.mem := rfl

/-! ### `State.appendLut`: one LUT entry appended (R69) -/

@[simp] theorem State.appendLut_params (e : LutEntry) (s : State) : (s.appendLut e).params = s.params := rfl
@[simp] theorem State.appendLut_requests (e : LutEntry) (s : State) : (s.appendLut e).requests = s.requests := rfl
@[simp] theorem State.appendLut_answers (e : LutEntry) (s : State) : (s.appendLut e).answers = s.answers := rfl
@[simp] theorem State.appendLut_mode (e : LutEntry) (s : State) : (s.appendLut e).mode = s.mode := rfl
@[simp] theorem State.appendLut_fmt (e : LutEntry) (s : State) : (s.appendLut e).fmt = s.fmt := rfl
@[simp] theorem State.appendLut_phase (e : LutEntry) (s : State) : (s.appendLut e).phase = s.phase := rfl
@[simp] theorem State.appendLut_outValid (e : LutEntry) (s : State) : (s.appendLut e).outValid = s.outValid := rfl
@[simp] theorem State.appendLut_warnEmpty (e : LutEntry) (s : State) : (s.appendLut e).warnEmpty = s.warnEmpty := rfl
@[simp] theorem State.appendLut_awaitOperand (e : LutEntry) (s : State) : (s.appendLut e).awaitOperand = s.awaitOperand := rfl
@[simp] theorem State.appendLut_pending (e : LutEntry) (s : State) : (s.appendLut e).pending = s.pending := rfl
@[simp] theorem State.appendLut_faultCode (e : LutEntry) (s : State) : (s.appendLut e).faultCode = s.faultCode := rfl
@[simp] theorem State.appendLut_faultInfo (e : LutEntry) (s : State) : (s.appendLut e).faultInfo = s.faultInfo := rfl
@[simp] theorem State.appendLut_lutCount (e : LutEntry) (s : State) : (s.appendLut e).lutCount = s.lutCount + 1 := rfl
@[simp] theorem State.appendLut_dataOff (e : LutEntry) (s : State) : (s.appendLut e).dataOff = s.dataOff := rfl
@[simp] theorem State.appendLut_width (e : LutEntry) (s : State) : (s.appendLut e).width = s.width := rfl
@[simp] theorem State.appendLut_height (e : LutEntry) (s : State) : (s.appendLut e).height = s.height := rfl
@[simp] theorem State.appendLut_fileLen (e : LutEntry) (s : State) : (s.appendLut e).fileLen = s.fileLen := rfl
@[simp] theorem State.appendLut_idxLen (e : LutEntry) (s : State) : (s.appendLut e).idxLen = s.idxLen := rfl
@[simp] theorem State.appendLut_outLen (e : LutEntry) (s : State) : (s.appendLut e).outLen = s.outLen := rfl
@[simp] theorem State.appendLut_lutSel (e : LutEntry) (s : State) : (s.appendLut e).lutSel = s.lutSel := rfl
@[simp] theorem State.appendLut_idxSel (e : LutEntry) (s : State) : (s.appendLut e).idxSel = s.idxSel := rfl
@[simp] theorem State.appendLut_outSel (e : LutEntry) (s : State) : (s.appendLut e).outSel = s.outSel := rfl
@[simp] theorem State.appendLut_mem_file (e : LutEntry) (s : State) : (s.appendLut e).mem.file = s.mem.file := rfl
@[simp] theorem State.appendLut_mem_idx (e : LutEntry) (s : State) : (s.appendLut e).mem.idx = s.mem.idx := rfl
@[simp] theorem State.appendLut_mem_out (e : LutEntry) (s : State) : (s.appendLut e).mem.out = s.mem.out := rfl
@[simp] theorem State.appendLut_mem_lut (e : LutEntry) (s : State) : (s.appendLut e).mem.lut = Store.write Config.unlistedEntry s.lutCount.toNat e s.mem.lut := rfl

/-! ### `State.loadTable`: a default table loaded (R70) -/

@[simp] theorem State.loadTable_params (tb : List LutEntry) (s : State) : (s.loadTable tb).params = s.params := rfl
@[simp] theorem State.loadTable_requests (tb : List LutEntry) (s : State) : (s.loadTable tb).requests = s.requests := rfl
@[simp] theorem State.loadTable_answers (tb : List LutEntry) (s : State) : (s.loadTable tb).answers = s.answers := rfl
@[simp] theorem State.loadTable_mode (tb : List LutEntry) (s : State) : (s.loadTable tb).mode = s.mode := rfl
@[simp] theorem State.loadTable_fmt (tb : List LutEntry) (s : State) : (s.loadTable tb).fmt = s.fmt := rfl
@[simp] theorem State.loadTable_phase (tb : List LutEntry) (s : State) : (s.loadTable tb).phase = .lutDef := rfl
@[simp] theorem State.loadTable_outValid (tb : List LutEntry) (s : State) : (s.loadTable tb).outValid = s.outValid := rfl
@[simp] theorem State.loadTable_warnEmpty (tb : List LutEntry) (s : State) : (s.loadTable tb).warnEmpty = s.warnEmpty := rfl
@[simp] theorem State.loadTable_awaitOperand (tb : List LutEntry) (s : State) : (s.loadTable tb).awaitOperand = s.awaitOperand := rfl
@[simp] theorem State.loadTable_pending (tb : List LutEntry) (s : State) : (s.loadTable tb).pending = s.pending := rfl
@[simp] theorem State.loadTable_faultCode (tb : List LutEntry) (s : State) : (s.loadTable tb).faultCode = s.faultCode := rfl
@[simp] theorem State.loadTable_faultInfo (tb : List LutEntry) (s : State) : (s.loadTable tb).faultInfo = s.faultInfo := rfl
@[simp] theorem State.loadTable_lutCount (tb : List LutEntry) (s : State) : (s.loadTable tb).lutCount = BitVec.ofNat 32 tb.length := rfl
@[simp] theorem State.loadTable_dataOff (tb : List LutEntry) (s : State) : (s.loadTable tb).dataOff = s.dataOff := rfl
@[simp] theorem State.loadTable_width (tb : List LutEntry) (s : State) : (s.loadTable tb).width = s.width := rfl
@[simp] theorem State.loadTable_height (tb : List LutEntry) (s : State) : (s.loadTable tb).height = s.height := rfl
@[simp] theorem State.loadTable_fileLen (tb : List LutEntry) (s : State) : (s.loadTable tb).fileLen = s.fileLen := rfl
@[simp] theorem State.loadTable_idxLen (tb : List LutEntry) (s : State) : (s.loadTable tb).idxLen = s.idxLen := rfl
@[simp] theorem State.loadTable_outLen (tb : List LutEntry) (s : State) : (s.loadTable tb).outLen = s.outLen := rfl
@[simp] theorem State.loadTable_lutSel (tb : List LutEntry) (s : State) : (s.loadTable tb).lutSel = s.lutSel := rfl
@[simp] theorem State.loadTable_idxSel (tb : List LutEntry) (s : State) : (s.loadTable tb).idxSel = s.idxSel := rfl
@[simp] theorem State.loadTable_outSel (tb : List LutEntry) (s : State) : (s.loadTable tb).outSel = s.outSel := rfl
@[simp] theorem State.loadTable_mem_file (tb : List LutEntry) (s : State) : (s.loadTable tb).mem.file = s.mem.file := rfl
@[simp] theorem State.loadTable_mem_idx (tb : List LutEntry) (s : State) : (s.loadTable tb).mem.idx = s.mem.idx := rfl
@[simp] theorem State.loadTable_mem_out (tb : List LutEntry) (s : State) : (s.loadTable tb).mem.out = s.mem.out := rfl
@[simp] theorem State.loadTable_mem_lut (tb : List LutEntry) (s : State) : (s.loadTable tb).mem.lut = Store.writeFrom Config.unlistedEntry 0 tb s.mem.lut := rfl

/-! ### `State.appendFile`: one FILE byte appended (R71) -/

@[simp] theorem State.appendFile_params (b : Byte) (s : State) : (s.appendFile b).params = s.params := rfl
@[simp] theorem State.appendFile_requests (b : Byte) (s : State) : (s.appendFile b).requests = s.requests := rfl
@[simp] theorem State.appendFile_answers (b : Byte) (s : State) : (s.appendFile b).answers = s.answers := rfl
@[simp] theorem State.appendFile_mode (b : Byte) (s : State) : (s.appendFile b).mode = s.mode := rfl
@[simp] theorem State.appendFile_fmt (b : Byte) (s : State) : (s.appendFile b).fmt = s.fmt := rfl
@[simp] theorem State.appendFile_phase (b : Byte) (s : State) : (s.appendFile b).phase = s.phase := rfl
@[simp] theorem State.appendFile_outValid (b : Byte) (s : State) : (s.appendFile b).outValid = s.outValid := rfl
@[simp] theorem State.appendFile_warnEmpty (b : Byte) (s : State) : (s.appendFile b).warnEmpty = s.warnEmpty := rfl
@[simp] theorem State.appendFile_awaitOperand (b : Byte) (s : State) : (s.appendFile b).awaitOperand = s.awaitOperand := rfl
@[simp] theorem State.appendFile_pending (b : Byte) (s : State) : (s.appendFile b).pending = s.pending := rfl
@[simp] theorem State.appendFile_faultCode (b : Byte) (s : State) : (s.appendFile b).faultCode = s.faultCode := rfl
@[simp] theorem State.appendFile_faultInfo (b : Byte) (s : State) : (s.appendFile b).faultInfo = s.faultInfo := rfl
@[simp] theorem State.appendFile_lutCount (b : Byte) (s : State) : (s.appendFile b).lutCount = s.lutCount := rfl
@[simp] theorem State.appendFile_dataOff (b : Byte) (s : State) : (s.appendFile b).dataOff = s.dataOff := rfl
@[simp] theorem State.appendFile_width (b : Byte) (s : State) : (s.appendFile b).width = s.width := rfl
@[simp] theorem State.appendFile_height (b : Byte) (s : State) : (s.appendFile b).height = s.height := rfl
@[simp] theorem State.appendFile_fileLen (b : Byte) (s : State) : (s.appendFile b).fileLen = s.fileLen + 1 := rfl
@[simp] theorem State.appendFile_idxLen (b : Byte) (s : State) : (s.appendFile b).idxLen = s.idxLen := rfl
@[simp] theorem State.appendFile_outLen (b : Byte) (s : State) : (s.appendFile b).outLen = s.outLen := rfl
@[simp] theorem State.appendFile_lutSel (b : Byte) (s : State) : (s.appendFile b).lutSel = s.lutSel := rfl
@[simp] theorem State.appendFile_idxSel (b : Byte) (s : State) : (s.appendFile b).idxSel = s.idxSel := rfl
@[simp] theorem State.appendFile_outSel (b : Byte) (s : State) : (s.appendFile b).outSel = s.outSel := rfl
@[simp] theorem State.appendFile_mem_file (b : Byte) (s : State) : (s.appendFile b).mem.file = Store.write Config.unlistedByte s.fileLen.toNat b s.mem.file := rfl
@[simp] theorem State.appendFile_mem_idx (b : Byte) (s : State) : (s.appendFile b).mem.idx = s.mem.idx := rfl
@[simp] theorem State.appendFile_mem_out (b : Byte) (s : State) : (s.appendFile b).mem.out = s.mem.out := rfl
@[simp] theorem State.appendFile_mem_lut (b : Byte) (s : State) : (s.appendFile b).mem.lut = s.mem.lut := rfl

/-! ### `State.readHeader`: the header registers read (R73) -/

@[simp] theorem State.readHeader_params (s : State) : (s.readHeader).params = s.params := rfl
@[simp] theorem State.readHeader_requests (s : State) : (s.readHeader).requests = s.requests := rfl
@[simp] theorem State.readHeader_answers (s : State) : (s.readHeader).answers = s.answers := rfl
@[simp] theorem State.readHeader_mode (s : State) : (s.readHeader).mode = s.mode := rfl
@[simp] theorem State.readHeader_fmt (s : State) : (s.readHeader).fmt = s.fmt := rfl
@[simp] theorem State.readHeader_phase (s : State) : (s.readHeader).phase = s.phase := rfl
@[simp] theorem State.readHeader_outValid (s : State) : (s.readHeader).outValid = s.outValid := rfl
@[simp] theorem State.readHeader_warnEmpty (s : State) : (s.readHeader).warnEmpty = s.warnEmpty := rfl
@[simp] theorem State.readHeader_awaitOperand (s : State) : (s.readHeader).awaitOperand = s.awaitOperand := rfl
@[simp] theorem State.readHeader_pending (s : State) : (s.readHeader).pending = s.pending := rfl
@[simp] theorem State.readHeader_faultCode (s : State) : (s.readHeader).faultCode = s.faultCode := rfl
@[simp] theorem State.readHeader_faultInfo (s : State) : (s.readHeader).faultInfo = s.faultInfo := rfl
@[simp] theorem State.readHeader_lutCount (s : State) : (s.readHeader).lutCount = s.lutCount := rfl
@[simp] theorem State.readHeader_dataOff (s : State) : (s.readHeader).dataOff = s.headerWord 10 := rfl
@[simp] theorem State.readHeader_width (s : State) : (s.readHeader).width = s.headerWord 18 := rfl
@[simp] theorem State.readHeader_height (s : State) : (s.readHeader).height = s.headerWord 22 := rfl
@[simp] theorem State.readHeader_fileLen (s : State) : (s.readHeader).fileLen = s.fileLen := rfl
@[simp] theorem State.readHeader_idxLen (s : State) : (s.readHeader).idxLen = s.idxLen := rfl
@[simp] theorem State.readHeader_outLen (s : State) : (s.readHeader).outLen = s.outLen := rfl
@[simp] theorem State.readHeader_lutSel (s : State) : (s.readHeader).lutSel = s.lutSel := rfl
@[simp] theorem State.readHeader_idxSel (s : State) : (s.readHeader).idxSel = s.idxSel := rfl
@[simp] theorem State.readHeader_outSel (s : State) : (s.readHeader).outSel = s.outSel := rfl
@[simp] theorem State.readHeader_mem (s : State) : (s.readHeader).mem = s.mem := rfl

/-! ### `State.storeIndices`: the index sequence stored (R78) -/

@[simp] theorem State.storeIndices_params (px : List Nibble) (s : State) : (s.storeIndices px).params = s.params := rfl
@[simp] theorem State.storeIndices_requests (px : List Nibble) (s : State) : (s.storeIndices px).requests = s.requests := rfl
@[simp] theorem State.storeIndices_answers (px : List Nibble) (s : State) : (s.storeIndices px).answers = s.answers := rfl
@[simp] theorem State.storeIndices_mode (px : List Nibble) (s : State) : (s.storeIndices px).mode = s.mode := rfl
@[simp] theorem State.storeIndices_fmt (px : List Nibble) (s : State) : (s.storeIndices px).fmt = s.fmt := rfl
@[simp] theorem State.storeIndices_phase (px : List Nibble) (s : State) : (s.storeIndices px).phase = .classified := rfl
@[simp] theorem State.storeIndices_outValid (px : List Nibble) (s : State) : (s.storeIndices px).outValid = s.outValid := rfl
@[simp] theorem State.storeIndices_warnEmpty (px : List Nibble) (s : State) : (s.storeIndices px).warnEmpty = s.warnEmpty := rfl
@[simp] theorem State.storeIndices_awaitOperand (px : List Nibble) (s : State) : (s.storeIndices px).awaitOperand = s.awaitOperand := rfl
@[simp] theorem State.storeIndices_pending (px : List Nibble) (s : State) : (s.storeIndices px).pending = s.pending := rfl
@[simp] theorem State.storeIndices_faultCode (px : List Nibble) (s : State) : (s.storeIndices px).faultCode = s.faultCode := rfl
@[simp] theorem State.storeIndices_faultInfo (px : List Nibble) (s : State) : (s.storeIndices px).faultInfo = s.faultInfo := rfl
@[simp] theorem State.storeIndices_lutCount (px : List Nibble) (s : State) : (s.storeIndices px).lutCount = s.lutCount := rfl
@[simp] theorem State.storeIndices_dataOff (px : List Nibble) (s : State) : (s.storeIndices px).dataOff = s.dataOff := rfl
@[simp] theorem State.storeIndices_width (px : List Nibble) (s : State) : (s.storeIndices px).width = s.width := rfl
@[simp] theorem State.storeIndices_height (px : List Nibble) (s : State) : (s.storeIndices px).height = s.height := rfl
@[simp] theorem State.storeIndices_fileLen (px : List Nibble) (s : State) : (s.storeIndices px).fileLen = s.fileLen := rfl
@[simp] theorem State.storeIndices_idxLen (px : List Nibble) (s : State) : (s.storeIndices px).idxLen = BitVec.ofNat 32 px.length := rfl
@[simp] theorem State.storeIndices_outLen (px : List Nibble) (s : State) : (s.storeIndices px).outLen = s.outLen := rfl
@[simp] theorem State.storeIndices_lutSel (px : List Nibble) (s : State) : (s.storeIndices px).lutSel = s.lutSel := rfl
@[simp] theorem State.storeIndices_idxSel (px : List Nibble) (s : State) : (s.storeIndices px).idxSel = s.idxSel := rfl
@[simp] theorem State.storeIndices_outSel (px : List Nibble) (s : State) : (s.storeIndices px).outSel = s.outSel := rfl
@[simp] theorem State.storeIndices_mem_file (px : List Nibble) (s : State) : (s.storeIndices px).mem.file = s.mem.file := rfl
@[simp] theorem State.storeIndices_mem_idx (px : List Nibble) (s : State) : (s.storeIndices px).mem.idx = Store.writeFrom Config.unlistedIndex 0 px s.mem.idx := rfl
@[simp] theorem State.storeIndices_mem_out (px : List Nibble) (s : State) : (s.storeIndices px).mem.out = s.mem.out := rfl
@[simp] theorem State.storeIndices_mem_lut (px : List Nibble) (s : State) : (s.storeIndices px).mem.lut = s.mem.lut := rfl

/-! ### `State.storeOutput`: the output stored (R79) -/

@[simp] theorem State.storeOutput_params (ts : List Token) (s : State) : (s.storeOutput ts).params = s.params := rfl
@[simp] theorem State.storeOutput_requests (ts : List Token) (s : State) : (s.storeOutput ts).requests = s.requests := rfl
@[simp] theorem State.storeOutput_answers (ts : List Token) (s : State) : (s.storeOutput ts).answers = s.answers := rfl
@[simp] theorem State.storeOutput_mode (ts : List Token) (s : State) : (s.storeOutput ts).mode = s.mode := rfl
@[simp] theorem State.storeOutput_fmt (ts : List Token) (s : State) : (s.storeOutput ts).fmt = s.fmt := rfl
@[simp] theorem State.storeOutput_phase (ts : List Token) (s : State) : (s.storeOutput ts).phase = .done := rfl
@[simp] theorem State.storeOutput_outValid (ts : List Token) (s : State) : (s.storeOutput ts).outValid = true := rfl
@[simp] theorem State.storeOutput_warnEmpty (ts : List Token) (s : State) : (s.storeOutput ts).warnEmpty = s.warnEmpty := rfl
@[simp] theorem State.storeOutput_awaitOperand (ts : List Token) (s : State) : (s.storeOutput ts).awaitOperand = s.awaitOperand := rfl
@[simp] theorem State.storeOutput_pending (ts : List Token) (s : State) : (s.storeOutput ts).pending = s.pending := rfl
@[simp] theorem State.storeOutput_faultCode (ts : List Token) (s : State) : (s.storeOutput ts).faultCode = s.faultCode := rfl
@[simp] theorem State.storeOutput_faultInfo (ts : List Token) (s : State) : (s.storeOutput ts).faultInfo = s.faultInfo := rfl
@[simp] theorem State.storeOutput_lutCount (ts : List Token) (s : State) : (s.storeOutput ts).lutCount = s.lutCount := rfl
@[simp] theorem State.storeOutput_dataOff (ts : List Token) (s : State) : (s.storeOutput ts).dataOff = s.dataOff := rfl
@[simp] theorem State.storeOutput_width (ts : List Token) (s : State) : (s.storeOutput ts).width = s.width := rfl
@[simp] theorem State.storeOutput_height (ts : List Token) (s : State) : (s.storeOutput ts).height = s.height := rfl
@[simp] theorem State.storeOutput_fileLen (ts : List Token) (s : State) : (s.storeOutput ts).fileLen = s.fileLen := rfl
@[simp] theorem State.storeOutput_idxLen (ts : List Token) (s : State) : (s.storeOutput ts).idxLen = s.idxLen := rfl
@[simp] theorem State.storeOutput_outLen (ts : List Token) (s : State) : (s.storeOutput ts).outLen = BitVec.ofNat 32 ts.length := rfl
@[simp] theorem State.storeOutput_lutSel (ts : List Token) (s : State) : (s.storeOutput ts).lutSel = s.lutSel := rfl
@[simp] theorem State.storeOutput_idxSel (ts : List Token) (s : State) : (s.storeOutput ts).idxSel = s.idxSel := rfl
@[simp] theorem State.storeOutput_outSel (ts : List Token) (s : State) : (s.storeOutput ts).outSel = s.outSel := rfl
@[simp] theorem State.storeOutput_mem_file (ts : List Token) (s : State) : (s.storeOutput ts).mem.file = s.mem.file := rfl
@[simp] theorem State.storeOutput_mem_idx (ts : List Token) (s : State) : (s.storeOutput ts).mem.idx = s.mem.idx := rfl
@[simp] theorem State.storeOutput_mem_out (ts : List Token) (s : State) : (s.storeOutput ts).mem.out = Store.writeFrom unlistedToken 0 ts s.mem.out := rfl
@[simp] theorem State.storeOutput_mem_lut (ts : List Token) (s : State) : (s.storeOutput ts).mem.lut = s.mem.lut := rfl

/-! ### `State.warnIf`: the warning (R100) -/

@[simp] theorem State.warnIf_params (b : Bool) (s : State) : (s.warnIf b).params = s.params := rfl
@[simp] theorem State.warnIf_requests (b : Bool) (s : State) : (s.warnIf b).requests = s.requests := rfl
@[simp] theorem State.warnIf_answers (b : Bool) (s : State) : (s.warnIf b).answers = s.answers := rfl
@[simp] theorem State.warnIf_mode (b : Bool) (s : State) : (s.warnIf b).mode = s.mode := rfl
@[simp] theorem State.warnIf_fmt (b : Bool) (s : State) : (s.warnIf b).fmt = s.fmt := rfl
@[simp] theorem State.warnIf_phase (b : Bool) (s : State) : (s.warnIf b).phase = s.phase := rfl
@[simp] theorem State.warnIf_outValid (b : Bool) (s : State) : (s.warnIf b).outValid = s.outValid := rfl
@[simp] theorem State.warnIf_warnEmpty (b : Bool) (s : State) : (s.warnIf b).warnEmpty = (s.warnEmpty || b) := rfl
@[simp] theorem State.warnIf_awaitOperand (b : Bool) (s : State) : (s.warnIf b).awaitOperand = s.awaitOperand := rfl
@[simp] theorem State.warnIf_pending (b : Bool) (s : State) : (s.warnIf b).pending = s.pending := rfl
@[simp] theorem State.warnIf_faultCode (b : Bool) (s : State) : (s.warnIf b).faultCode = s.faultCode := rfl
@[simp] theorem State.warnIf_faultInfo (b : Bool) (s : State) : (s.warnIf b).faultInfo = s.faultInfo := rfl
@[simp] theorem State.warnIf_lutCount (b : Bool) (s : State) : (s.warnIf b).lutCount = s.lutCount := rfl
@[simp] theorem State.warnIf_dataOff (b : Bool) (s : State) : (s.warnIf b).dataOff = s.dataOff := rfl
@[simp] theorem State.warnIf_width (b : Bool) (s : State) : (s.warnIf b).width = s.width := rfl
@[simp] theorem State.warnIf_height (b : Bool) (s : State) : (s.warnIf b).height = s.height := rfl
@[simp] theorem State.warnIf_fileLen (b : Bool) (s : State) : (s.warnIf b).fileLen = s.fileLen := rfl
@[simp] theorem State.warnIf_idxLen (b : Bool) (s : State) : (s.warnIf b).idxLen = s.idxLen := rfl
@[simp] theorem State.warnIf_outLen (b : Bool) (s : State) : (s.warnIf b).outLen = s.outLen := rfl
@[simp] theorem State.warnIf_lutSel (b : Bool) (s : State) : (s.warnIf b).lutSel = s.lutSel := rfl
@[simp] theorem State.warnIf_idxSel (b : Bool) (s : State) : (s.warnIf b).idxSel = s.idxSel := rfl
@[simp] theorem State.warnIf_outSel (b : Bool) (s : State) : (s.warnIf b).outSel = s.outSel := rfl
@[simp] theorem State.warnIf_mem (b : Bool) (s : State) : (s.warnIf b).mem = s.mem := rfl

/-! ### `State.latch`: a LUT_WR first word latched (R33) -/

@[simp] theorem State.latch_params (w : Word) (s : State) : (s.latch w).params = s.params := rfl
@[simp] theorem State.latch_requests (w : Word) (s : State) : (s.latch w).requests = s.requests := rfl
@[simp] theorem State.latch_answers (w : Word) (s : State) : (s.latch w).answers = s.answers := rfl
@[simp] theorem State.latch_mode (w : Word) (s : State) : (s.latch w).mode = s.mode := rfl
@[simp] theorem State.latch_fmt (w : Word) (s : State) : (s.latch w).fmt = s.fmt := rfl
@[simp] theorem State.latch_phase (w : Word) (s : State) : (s.latch w).phase = s.phase := rfl
@[simp] theorem State.latch_outValid (w : Word) (s : State) : (s.latch w).outValid = s.outValid := rfl
@[simp] theorem State.latch_warnEmpty (w : Word) (s : State) : (s.latch w).warnEmpty = s.warnEmpty := rfl
@[simp] theorem State.latch_awaitOperand (w : Word) (s : State) : (s.latch w).awaitOperand = true := rfl
@[simp] theorem State.latch_pending (w : Word) (s : State) : (s.latch w).pending = w := rfl
@[simp] theorem State.latch_faultCode (w : Word) (s : State) : (s.latch w).faultCode = s.faultCode := rfl
@[simp] theorem State.latch_faultInfo (w : Word) (s : State) : (s.latch w).faultInfo = s.faultInfo := rfl
@[simp] theorem State.latch_lutCount (w : Word) (s : State) : (s.latch w).lutCount = s.lutCount := rfl
@[simp] theorem State.latch_dataOff (w : Word) (s : State) : (s.latch w).dataOff = s.dataOff := rfl
@[simp] theorem State.latch_width (w : Word) (s : State) : (s.latch w).width = s.width := rfl
@[simp] theorem State.latch_height (w : Word) (s : State) : (s.latch w).height = s.height := rfl
@[simp] theorem State.latch_fileLen (w : Word) (s : State) : (s.latch w).fileLen = s.fileLen := rfl
@[simp] theorem State.latch_idxLen (w : Word) (s : State) : (s.latch w).idxLen = s.idxLen := rfl
@[simp] theorem State.latch_outLen (w : Word) (s : State) : (s.latch w).outLen = s.outLen := rfl
@[simp] theorem State.latch_lutSel (w : Word) (s : State) : (s.latch w).lutSel = s.lutSel := rfl
@[simp] theorem State.latch_idxSel (w : Word) (s : State) : (s.latch w).idxSel = s.idxSel := rfl
@[simp] theorem State.latch_outSel (w : Word) (s : State) : (s.latch w).outSel = s.outSel := rfl
@[simp] theorem State.latch_mem (w : Word) (s : State) : (s.latch w).mem = s.mem := rfl

/-! ### `State.unlatch`: the latch released (R33) -/

@[simp] theorem State.unlatch_params (s : State) : (s.unlatch).params = s.params := rfl
@[simp] theorem State.unlatch_requests (s : State) : (s.unlatch).requests = s.requests := rfl
@[simp] theorem State.unlatch_answers (s : State) : (s.unlatch).answers = s.answers := rfl
@[simp] theorem State.unlatch_mode (s : State) : (s.unlatch).mode = s.mode := rfl
@[simp] theorem State.unlatch_fmt (s : State) : (s.unlatch).fmt = s.fmt := rfl
@[simp] theorem State.unlatch_phase (s : State) : (s.unlatch).phase = s.phase := rfl
@[simp] theorem State.unlatch_outValid (s : State) : (s.unlatch).outValid = s.outValid := rfl
@[simp] theorem State.unlatch_warnEmpty (s : State) : (s.unlatch).warnEmpty = s.warnEmpty := rfl
@[simp] theorem State.unlatch_awaitOperand (s : State) : (s.unlatch).awaitOperand = false := rfl
@[simp] theorem State.unlatch_pending (s : State) : (s.unlatch).pending = s.pending := rfl
@[simp] theorem State.unlatch_faultCode (s : State) : (s.unlatch).faultCode = s.faultCode := rfl
@[simp] theorem State.unlatch_faultInfo (s : State) : (s.unlatch).faultInfo = s.faultInfo := rfl
@[simp] theorem State.unlatch_lutCount (s : State) : (s.unlatch).lutCount = s.lutCount := rfl
@[simp] theorem State.unlatch_dataOff (s : State) : (s.unlatch).dataOff = s.dataOff := rfl
@[simp] theorem State.unlatch_width (s : State) : (s.unlatch).width = s.width := rfl
@[simp] theorem State.unlatch_height (s : State) : (s.unlatch).height = s.height := rfl
@[simp] theorem State.unlatch_fileLen (s : State) : (s.unlatch).fileLen = s.fileLen := rfl
@[simp] theorem State.unlatch_idxLen (s : State) : (s.unlatch).idxLen = s.idxLen := rfl
@[simp] theorem State.unlatch_outLen (s : State) : (s.unlatch).outLen = s.outLen := rfl
@[simp] theorem State.unlatch_lutSel (s : State) : (s.unlatch).lutSel = s.lutSel := rfl
@[simp] theorem State.unlatch_idxSel (s : State) : (s.unlatch).idxSel = s.idxSel := rfl
@[simp] theorem State.unlatch_outSel (s : State) : (s.unlatch).outSel = s.outSel := rfl
@[simp] theorem State.unlatch_mem (s : State) : (s.unlatch).mem = s.mem := rfl

end Sys2Proof.Machine
end

