-- ==== Sys2Proof/Laws/Store.lean ====
section
/-! SUPPORT. The laws of the sparse stores: reading after writing, and that every write keeps the canonical form and the bound of the space. -/

namespace Sys2Proof.Machine

variable {α : Type} [DecidableEq α] {d : α}

/-- A canonical store from `lo` up reads as `d` below `lo`. -/
theorem Store.read_of_wfFrom_of_lt : ∀ {lo : Nat} {st : List (Nat × α)} {a : Nat},
    Store.wfFrom d lo st = true → a < lo → Store.read d st a = d
  | _, [], _, _, _ => rfl
  | lo, (b, v) :: rest, a, h, ha => by
    simp only [Store.wfFrom, Bool.and_eq_true, decide_eq_true_eq] at h
    have hne : a ≠ b := by omega
    simp only [Store.read, hne, if_false]
    exact Store.read_of_wfFrom_of_lt h.2 (by omega)

/-- A canonical store from `lo` up is one from any lower bound. -/
theorem Store.wfFrom_mono : ∀ {lo lo' : Nat} {st : List (Nat × α)},
    Store.wfFrom d lo st = true → lo' ≤ lo → Store.wfFrom d lo' st = true
  | _, _, [], _, _ => rfl
  | lo, lo', (b, v) :: rest, h, hl => by
    simp only [Store.wfFrom, Bool.and_eq_true, decide_eq_true_eq] at h ⊢
    exact ⟨⟨by omega, h.1.2⟩, h.2⟩

/-- Writing at or above `lo` keeps the canonical form from `lo` up. -/
theorem Store.write_wfFrom : ∀ {lo : Nat} {st : List (Nat × α)} {a : Nat} {v : α},
    Store.wfFrom d lo st = true → lo ≤ a → Store.wfFrom d lo (Store.write d a v st) = true
  | lo, [], a, v, _, ha => by
    by_cases hv : v = d <;> simp [Store.write, Store.wfFrom, hv, ha]
  | lo, (b, w) :: rest, a, v, h, ha => by
    have h' := h
    simp only [Store.wfFrom, Bool.and_eq_true, decide_eq_true_eq] at h
    obtain ⟨⟨hb, hw⟩, hr⟩ := h
    unfold Store.write
    split
    · split
      · exact h'
      · rename_i hlt hv
        simp only [Store.wfFrom, Bool.and_eq_true, decide_eq_true_eq]
        exact ⟨⟨ha, hv⟩, ⟨by omega, hw⟩, hr⟩
    · split
      · split
        · exact Store.wfFrom_mono hr (by omega)
        · rename_i _ hab hv
          subst hab
          simp only [Store.wfFrom, Bool.and_eq_true, decide_eq_true_eq]
          exact ⟨⟨ha, hv⟩, hr⟩
      · simp only [Store.wfFrom, Bool.and_eq_true, decide_eq_true_eq]
        exact ⟨⟨hb, hw⟩, Store.write_wfFrom hr (by omega)⟩

/-- Every write keeps the canonical form. -/
theorem Store.write_wf {st : List (Nat × α)} {a : Nat} {v : α} (h : Store.wf d st = true) :
    Store.wf d (Store.write d a v st) = true :=
  Store.write_wfFrom h (Nat.zero_le a)

/-- The cell just written reads as the value written. -/
theorem Store.read_write_same : ∀ {lo : Nat} {st : List (Nat × α)} {a : Nat} {v : α},
    Store.wfFrom d lo st = true → Store.read d (Store.write d a v st) a = v
  | lo, [], a, v, _ => by
    by_cases hv : v = d <;> simp [Store.write, Store.read, hv]
  | lo, (b, w) :: rest, a, v, h => by
    have h' := h
    simp only [Store.wfFrom, Bool.and_eq_true, decide_eq_true_eq] at h
    unfold Store.write
    split
    · rename_i hlt
      split
      · rename_i hv
        have hne : a ≠ b := by omega
        simp only [Store.read, hne, if_false]
        rw [hv]
        exact Store.read_of_wfFrom_of_lt h.2 (by omega)
      · simp [Store.read]
    · split
      · rename_i _ hab
        split
        · rename_i hv
          rw [hv]
          exact Store.read_of_wfFrom_of_lt h.2 (by omega)
        · simp [Store.read]
      · rename_i _ hab
        simp only [Store.read, hab, if_false]
        exact Store.read_write_same h.2

/-- A write leaves every other cell alone. -/
theorem Store.read_write_other : ∀ {st : List (Nat × α)} {a a' : Nat} {v : α},
    a' ≠ a → Store.read d (Store.write d a v st) a' = Store.read d st a'
  | [], a, a', v, hne => by
    by_cases hv : v = d <;> simp [Store.write, Store.read, hv, hne]
  | (b, w) :: rest, a, a', v, hne => by
    unfold Store.write
    split
    · split
      · rfl
      · simp [Store.read, hne]
    · split
      · rename_i _ hab
        subst hab
        split <;> simp [Store.read, hne]
      · by_cases hb : a' = b
        · simp [Store.read, hb]
        · simp only [Store.read, hb, if_false]
          exact Store.read_write_other hne

/-- Consecutive writes keep the canonical form. -/
theorem Store.writeFrom_wf : ∀ {vs : List α} {st : List (Nat × α)} {a : Nat},
    Store.wf d st = true → Store.wf d (Store.writeFrom d a vs st) = true
  | [], _, _, h => h
  | v :: vs, st, a, h => by
    simp only [Store.writeFrom]
    exact Store.writeFrom_wf (Store.write_wf h)

/-- Consecutive writes from `a` up leave every cell outside them alone. -/
theorem Store.read_writeFrom_outside : ∀ {vs : List α} {st : List (Nat × α)} {a i : Nat},
    i < a ∨ a + vs.length ≤ i → Store.read d (Store.writeFrom d a vs st) i = Store.read d st i
  | [], _, _, _, _ => rfl
  | v :: vs, st, a, i, h => by
    simp only [List.length_cons] at h
    simp only [Store.writeFrom]
    rw [Store.read_writeFrom_outside (by omega), Store.read_write_other (by omega)]

/-- Consecutive writes from `a` up put the `k`-th value at `a + k`. -/
theorem Store.read_writeFrom_inside : ∀ {vs : List α} {st : List (Nat × α)} {a k : Nat} (hk : k < vs.length),
    Store.wf d st = true → Store.read d (Store.writeFrom d a vs st) (a + k) = vs[k]
  | v :: vs, st, a, 0, _, h => by
    simp only [Store.writeFrom, Nat.add_zero, List.getElem_cons_zero]
    rw [Store.read_writeFrom_outside (Or.inl (Nat.lt_succ_self a)), Store.read_write_same h]
  | v :: vs, st, a, k + 1, hk, h => by
    simp only [Store.writeFrom, List.getElem_cons_succ]
    rw [show a + (k + 1) = a + 1 + k by omega]
    exact Store.read_writeFrom_inside (by simpa using hk) (Store.write_wf h)

/-- What a whole list written from address 0 reads back as. -/
theorem Store.map_read_writeFrom {vs : List α} {st : List (Nat × α)} (h : Store.wf d st = true) :
    (List.range vs.length).map (Store.read d (Store.writeFrom d 0 vs st)) = vs := by
  apply List.ext_getElem
  · simp
  · intro k h1 h2
    have := Store.read_writeFrom_inside (a := 0) h2 h
    simpa using this

omit [DecidableEq α] in
/-- The bound of a space, cell by cell. -/
theorem Store.below_iff {n : Nat} {st : List (Nat × α)} : Store.below n st = true ↔ ∀ c ∈ st, c.1 < n := by
  simp [Store.below]

/-- The cells of a store after a write are old cells or the one written. -/
theorem Store.mem_write : ∀ {st : List (Nat × α)} {a : Nat} {v : α} {c : Nat × α},
    c ∈ Store.write d a v st → c ∈ st ∨ c = (a, v)
  | [], a, v, c, h => by
    unfold Store.write at h
    split at h <;> simp_all
  | (b, w) :: rest, a, v, c, h => by
    unfold Store.write at h
    split at h
    · split at h
      · exact Or.inl h
      · rcases List.mem_cons.mp h with h | h
        · exact Or.inr h
        · exact Or.inl h
    · split at h
      · split at h
        · exact Or.inl (List.mem_cons_of_mem _ h)
        · rcases List.mem_cons.mp h with h | h
          · exact Or.inr h
          · exact Or.inl (List.mem_cons_of_mem _ h)
      · rcases List.mem_cons.mp h with h | h
        · exact Or.inl (h ▸ List.mem_cons_self)
        · rcases Store.mem_write h with h | h
          · exact Or.inl (List.mem_cons_of_mem _ h)
          · exact Or.inr h

/-- A write inside the space keeps its bound. -/
theorem Store.write_below {n : Nat} {st : List (Nat × α)} {a : Nat} {v : α} (h : Store.below n st = true)
    (ha : a < n) : Store.below n (Store.write d a v st) = true := by
  rw [Store.below_iff] at h ⊢
  intro c hc
  rcases Store.mem_write hc with hc | rfl
  · exact h c hc
  · exact ha

/-- Consecutive writes inside the space keep its bound. -/
theorem Store.writeFrom_below : ∀ {n : Nat} {vs : List α} {st : List (Nat × α)} {a : Nat},
    Store.below n st = true → a + vs.length ≤ n → Store.below n (Store.writeFrom d a vs st) = true
  | _, [], _, _, h, _ => h
  | n, v :: vs, st, a, h, hn => by
    simp only [List.length_cons] at hn
    simp only [Store.writeFrom]
    exact Store.writeFrom_below (Store.write_below h (show a < n by omega)) (by omega)

/-- The empty store is canonical. -/
@[simp] theorem Store.wf_nil : Store.wf d ([] : List (Nat × α)) = true := rfl

end Sys2Proof.Machine
end

