-- ==== Sys2Proof/Laws/Loops.lean ====
section
/-! SUPPORT. The two checking loops: what they answer when no element faults, and that the fault they report is the first. -/

namespace Sys2Proof.Machine

variable {α β σ ε : Type}

/-- `tryMap` answers a list of the same length. -/
theorem tryMap_length {f : α → Except ε β} : ∀ {xs : List α} {ys : List β}, tryMap f xs = .ok ys → ys.length = xs.length
  | [], ys, h => by simp only [tryMap, Except.ok.injEq] at h; simp [← h]
  | x :: xs, ys, h => by
    simp only [tryMap] at h
    split at h
    · cases h
    · split at h
      · cases h
      · rename_i zs hz
        simp only [Except.ok.injEq] at h
        simp [← h, tryMap_length hz]

/-- Every value `tryMap` answers is the value of its element. -/
theorem tryMap_get {f : α → Except ε β} : ∀ {xs : List α} {ys : List β}, tryMap f xs = .ok ys →
    ∀ (k : Nat) (h1 : k < xs.length) (h2 : k < ys.length), f xs[k] = .ok ys[k]
  | [], _, _, _, h1, _ => by simp at h1
  | x :: xs, ys, h, k, h1, h2 => by
    simp only [tryMap] at h
    split at h
    · cases h
    · rename_i y hy
      split at h
      · cases h
      · rename_i zs hz
        simp only [Except.ok.injEq] at h
        subst h
        cases k with
        | zero => simpa using hy
        | succ k => simpa using tryMap_get hz k (by simpa using h1) (by simpa using h2)

/-- Where no element faults, `tryMap` is `map`. -/
theorem tryMap_ok {f : α → Except ε β} {g : α → β} : ∀ {xs : List α}, (∀ x ∈ xs, f x = .ok (g x)) →
    tryMap f xs = .ok (xs.map g)
  | [], _ => rfl
  | x :: xs, h => by
    simp only [tryMap, h x List.mem_cons_self, tryMap_ok (fun y hy => h y (List.mem_cons_of_mem _ hy)), List.map_cons]

/-- The fault `tryMap` reports is the first element's that has one. -/
theorem tryMap_error {f : α → Except ε β} {e : ε} : ∀ {pre : List α} {x : α} {post : List α},
    (∀ y ∈ pre, ∃ v, f y = .ok v) → f x = .error e → tryMap f (pre ++ x :: post) = .error e
  | [], x, post, _, hx => by simp only [List.nil_append, tryMap, hx]
  | y :: pre, x, post, h, hx => by
    obtain ⟨v, hv⟩ := h y List.mem_cons_self
    simp only [List.cons_append, tryMap, hv, tryMap_error (fun z hz => h z (List.mem_cons_of_mem _ hz)) hx]

/-- A fault of `tryMap` is some element's. -/
theorem tryMap_error_mem {f : α → Except ε β} {e : ε} : ∀ {xs : List α}, tryMap f xs = .error e →
    ∃ x ∈ xs, f x = .error e
  | [], h => by simp [tryMap] at h
  | x :: xs, h => by
    simp only [tryMap] at h
    split at h
    · rename_i e' he
      simp only [Except.error.injEq] at h
      exact ⟨x, List.mem_cons_self, h ▸ he⟩
    · split at h
      · rename_i e' he
        simp only [Except.error.injEq] at h
        obtain ⟨y, hy, hfy⟩ := tryMap_error_mem (h ▸ he)
        exact ⟨y, List.mem_cons_of_mem _ hy, hfy⟩
      · cases h

/-- `tryFold` over two lists one after the other. -/
theorem tryFold_append {f : σ → α → Except ε σ} : ∀ (xs ys : List α) (s : σ),
    tryFold f s (xs ++ ys) =
      match tryFold f s xs with
      | .error e => .error e
      | .ok s' => tryFold f s' ys
  | [], _, _ => rfl
  | x :: xs, ys, s => by
    simp only [List.cons_append, tryFold]
    split
    · rfl
    · exact tryFold_append xs ys _

/-- An invariant of a `tryFold` that does not fault. -/
theorem tryFold_invariant {f : σ → α → Except ε σ} {P : σ → Prop} : ∀ {xs : List α} {s s' : σ},
    tryFold f s xs = .ok s' → P s → (∀ x ∈ xs, ∀ a b, P a → f a x = .ok b → P b) → P s'
  | [], s, s', h, hp, _ => by
    simp only [tryFold, Except.ok.injEq] at h
    exact h ▸ hp
  | x :: xs, s, s', h, hp, hi => by
    simp only [tryFold] at h
    split at h
    · cases h
    · rename_i s1 hs1
      exact tryFold_invariant h (hi x List.mem_cons_self _ _ hp hs1) (fun y hy => hi y (List.mem_cons_of_mem _ hy))

/-- A fault of `tryFold` is raised at some element, in some state. -/
theorem tryFold_error_mem {f : σ → α → Except ε σ} {e : ε} : ∀ {xs : List α} {s : σ}, tryFold f s xs = .error e →
    ∃ x ∈ xs, ∃ a, f a x = .error e
  | [], s, h => by simp [tryFold] at h
  | x :: xs, s, h => by
    simp only [tryFold] at h
    split at h
    · rename_i e' he
      simp only [Except.error.injEq] at h
      exact ⟨x, List.mem_cons_self, s, h ▸ he⟩
    · obtain ⟨y, hy, a, hfa⟩ := tryFold_error_mem h
      exact ⟨y, List.mem_cons_of_mem _ hy, a, hfa⟩

end Sys2Proof.Machine
end

