-- ==== Sys2Proof/Laws/Effect.lean ====
section
/-! SUPPORT. What a command, and a step, can do when they answer a next state: one relation for `exec` and one for `step`, which later proofs take apart instead of unfolding the machine. -/

namespace Sys2Proof.Machine

/-- Everything `exec` can do when it answers a next state. -/
inductive Effect (s : State) : Instr → State → Prop
  | nop (hint) : Effect s (.nop hint) s
  | cfg (fmt mode) : Effect s (.cfg fmt mode) (s.newRun fmt mode)
  | ignored (i) : s.phase = .fault → (∀ fmt mode, i ≠ .cfg fmt mode) → Effect s i s
  | trap (i t) : s.phase ≠ .fault → t.code ≠ .none → (∀ fmt mode, i ≠ .cfg fmt mode) → (∀ hint, i ≠ .nop hint) →
      Effect s i (s.raise t)
  | lutWr (len rgb w1) : s.phase = .config → s.mode.legal (signedIndex w1) = true →
      s.lutCount.toNat < s.params.lutDepth.toNat → Effect s (.lutWr len rgb w1) (s.appendLut ⟨rgb, w1.setWidth 4⟩)
  | lutDef : s.phase = .config → s.lutCount = 0 → s.params.tablesOk = true →
      Effect s .lutDef (s.loadTable (s.params.defaultTable s.mode))
  | fileWr (b) : s.phase = .config ∨ s.phase = .lutDef → s.fileLen.toNat < s.params.fileMax.toNat →
      Effect s (.fileWr b) (s.appendFile b)
  | hdr : s.phase = .config ∨ s.phase = .lutDef → 26 ≤ s.fileLen.toNat →
      dimsOk s.mode s.readHeader.imageW s.readHeader.signedHeight = true →
      s.readHeader.pixelCount ≤ s.params.idxMax.toNat → Effect s .hdr { s.readHeader with phase := .hdrOk }
  | hdrTrap (t) : s.phase = .config ∨ s.phase = .lutDef → t.code ≠ .none → Effect s .hdr (s.readHeader.raise t)
  | classify (px) : s.phase = .hdrOk → s.pixelCount ≤ s.params.idxMax.toNat → s.classifyAll = .ok px →
      Effect s .classify (s.storeIndices px)
  | encode (e) : s.phase = .classified → s.encoded = .ok e → e.tokens.length ≤ s.params.outMax.toNat →
      (e.warnEmpty = true → s.mode = .sprite1 ∧ s.fmt = .asm) →
      Effect s .encode ((s.warnIf e.warnEmpty).storeOutput e.tokens)
  | encodeTrap (e t) : s.phase = .classified → s.encoded = .ok e → t.code ≠ .none →
      (e.warnEmpty = true → s.mode = .sprite1 ∧ s.fmt = .asm) → Effect s .encode ((s.warnIf e.warnEmpty).raise t)

/-- What sequencing answers, case by case. -/
theorem sequenced_cases (i : Instr) (s : State) (k : Result) :
    (s.phase = .fault ∧ sequenced i s k = .next s)
      ∨ (s.phase ≠ .fault ∧ accepts i s = true ∧ sequenced i s k = k)
      ∨ (s.phase ≠ .fault ∧ accepts i s = false
          ∧ sequenced i s k = .next (s.raise ⟨.sequenceError, i.firstWord, s.phaseWord, 0, 0⟩)) := by
  unfold sequenced
  by_cases hf : s.phase = .fault
  · exact Or.inl ⟨hf, if_pos hf⟩
  · by_cases ha : accepts i s = true
    · exact Or.inr (Or.inl ⟨hf, ha, by rw [if_neg hf, if_pos ha]⟩)
    · exact Or.inr (Or.inr ⟨hf, by simpa using ha, by rw [if_neg hf, if_neg ha]⟩)

/-- A fault of TILE2's row check has a code. -/
theorem scanTwoColors_code {ix : Nat → Nibble} {w r : Nat} : ∀ {cs : List Nat} {seen : List Nibble} {t : Trap},
    scanTwoColors ix w r cs seen = .error t → t.code = .tooManyColorsPerLine
  | [], _, _, h => by simp [scanTwoColors] at h
  | c :: cs, seen, t, h => by
    simp only [scanTwoColors] at h
    split at h
    · exact scanTwoColors_code h
    · split at h
      · simp only [Except.error.injEq] at h
        rw [← h]
      · exact scanTwoColors_code h

/-- A fault of a one-colour check of a row has the check's code. -/
theorem trackRow_code {code : FaultCode} {ix : Nat → Nibble} {w : Nat} {g : Option Nibble} {p : Nat × Nat} {t : Trap}
    (h : trackRow code ix w g p = .error t) : t.code = code := by
  obtain ⟨k, _, a, hk⟩ := tryFold_error_mem h
  unfold trackColor at hk
  dsimp only at hk
  split at hk
  · cases hk
  · split at hk
    · cases hk
    · split at hk
      · cases hk
      · simp only [Except.error.injEq] at hk
        rw [← hk]

/-- A fault of the SIF body is OutOfRange. -/
theorem sifFrom_code {ix : Nat → Nibble} {w n : Nat} : ∀ {fuel i : Nat} {t : Trap},
    sifFrom ix w n fuel i = .error t → t.code = .outOfRange
  | 0, _, _, h => by simp [sifFrom] at h
  | fuel + 1, i, t, h => by
    simp only [sifFrom] at h
    split at h
    · split at h
      · split at h
        · rename_i t' ht
          simp only [Except.error.injEq] at h
          exact h ▸ sifFrom_code ht
        · cases h
      · split at h
        · simp only [Except.error.injEq] at h
          rw [← h]
        · split at h
          · rename_i t' ht
            simp only [Except.error.injEq] at h
            exact h ▸ sifFrom_code ht
          · cases h
    · cases h

/-- `plainOutput` passes a fault on. -/
theorem plainOutput_error {r : Except Trap (List Token)} {t : Trap} (h : plainOutput r = .error t) : r = .error t := by
  cases r with
  | error e => simpa [plainOutput] using h
  | ok ts => simp [plainOutput] at h

/-- `plainOutput` never warns. -/
theorem plainOutput_ok {r : Except Trap (List Token)} {e : Encoded} (h : plainOutput r = .ok e) :
    r = .ok e.tokens ∧ e.warnEmpty = false := by
  cases r with
  | error e => simp [plainOutput] at h
  | ok ts =>
    simp only [plainOutput, Except.ok.injEq] at h
    subst h
    exact ⟨rfl, rfl⟩

/-- Every fault of an encoder has a code. -/
theorem State.encoded_code {s : State} {t : Trap} (h : s.encoded = .error t) : t.code ≠ .none := by
  unfold State.encoded at h
  split at h
  · have h := plainOutput_error h
    unfold sif at h
    split at h
    · simp only [Except.error.injEq] at h
      rw [← h]
      simp
    · split at h
      · rename_i t' ht
        simp only [Except.error.injEq] at h
        subst h
        rw [sifFrom_code ht]
        simp
      · cases h
  · split at h
    · cases h
    · cases h
    · have h := plainOutput_error h
      unfold tile2 at h
      split at h
      · rename_i t' ht
        simp only [Except.error.injEq] at h
        subst h
        obtain ⟨r, _, hr⟩ := tryMap_error_mem ht
        unfold tile2Row at hr
        split at hr
        · rename_i t'' hs
          simp only [Except.error.injEq] at hr
          subst hr
          rw [scanTwoColors_code hs]
          simp
        · cases hr
      · cases h
    · cases h
    · cases h
    · cases h
    · unfold sprSingle at h
      dsimp only at h
      split at h
      · rename_i t' ht
        simp only [Except.error.injEq] at h
        subst h
        obtain ⟨p, _, a, hp⟩ := tryFold_error_mem ht
        rw [trackRow_code hp]
        simp
      · split at h <;> cases h
    · unfold sprLine at h
      dsimp only at h
      split at h
      · rename_i t' ht
        simp only [Except.error.injEq] at h
        subst h
        obtain ⟨p, _, hp⟩ := tryMap_error_mem ht
        unfold lineColor at hp
        split at hp
        · rename_i t'' ht''
          simp only [Except.error.injEq] at hp
          subst hp
          rw [trackRow_code ht'']
          simp
        · cases hp
      · split at h
        · cases h
        · unfold sprLinePost at h
          split at h
          · simp only [Except.error.injEq] at h
            rw [← h]
            simp [layoutOpenTrap]
          · split at h
            · simp only [Except.error.injEq] at h
              rw [← h]
              simp [layoutOpenTrap]
            · cases h

/-- Only the SPRITE1 encoder warns. -/
theorem State.encoded_warn {s : State} {e : Encoded} (h : s.encoded = .ok e) (hw : e.warnEmpty = true) :
    s.mode = .sprite1 ∧ s.fmt = .asm := by
  unfold State.encoded at h
  split at h
  · rw [(plainOutput_ok h).2] at hw
    cases hw
  · rename_i hf
    split at h
    · simp only [Except.ok.injEq] at h
      rw [← h] at hw
      cases hw
    · simp only [Except.ok.injEq] at h
      rw [← h] at hw
      cases hw
    · rw [(plainOutput_ok h).2] at hw
      cases hw
    · simp only [Except.ok.injEq] at h
      rw [← h] at hw
      cases hw
    · simp only [Except.ok.injEq] at h
      rw [← h] at hw
      cases hw
    · simp only [Except.ok.injEq] at h
      rw [← h] at hw
      cases hw
    · rename_i hm
      exact ⟨hm, hf⟩
    · unfold sprLine at h
      dsimp only at h
      split at h
      · cases h
      · split at h
        · simp only [Except.ok.injEq] at h
          rw [← h] at hw
          cases hw
        · unfold sprLinePost at h
          split at h
          · cases h
          · split at h
            · cases h
            · simp only [Except.ok.injEq] at h
              rw [← h] at hw
              cases hw

/-- A fault of CLASSIFY's loop has a code. -/
theorem State.classifyAll_code {s : State} {t : Trap} (h : s.classifyAll = .error t) : t.code ≠ .none := by
  obtain ⟨i, _, hi⟩ := tryMap_error_mem h
  unfold State.classifyPixel at hi
  split at hi
  · rename_i t' ht
    simp only [Except.error.injEq] at hi
    subst hi
    unfold State.fetchPixel at ht
    split at ht
    · simp only [Except.error.injEq] at ht
      rw [← ht]
      simp
    · cases ht
  · unfold State.lookupPixel at hi
    split at hi
    · cases hi
    · split at hi
      · cases hi
      · simp only [Except.error.injEq] at hi
        rw [← hi]
        simp

/-- A sequenced command answers as its own effect does, is ignored, or raises SequenceError. -/
theorem sequenced_effect {i : Instr} {s t : State} {k : Result} (hc : ∀ fmt mode, i ≠ .cfg fmt mode)
    (hn : ∀ hint, i ≠ .nop hint) (h : sequenced i s k = .next t)
    (hk : s.phase ≠ .fault → accepts i s = true → k = .next t → Effect s i t) : Effect s i t := by
  rcases sequenced_cases i s k with ⟨hf, he⟩ | ⟨hf, ha, he⟩ | ⟨hf, _, he⟩
  · rw [he, Host.Outcome.next.injEq] at h
    exact h ▸ Effect.ignored i hf hc
  · exact hk hf ha (he ▸ h)
  · rw [he, Host.Outcome.next.injEq] at h
    exact h ▸ Effect.trap i _ hf (by simp) hc hn

/-- Everything a command can do when it answers a next state. -/
theorem exec_effect {i : Instr} {s t : State} (h : exec i s = .next t) : Effect s i t := by
  cases i with
  | nop hint =>
    simp only [exec, execNop, Host.Outcome.next.injEq] at h
    exact h ▸ Effect.nop hint
  | cfg fmt mode =>
    simp only [exec, execCfg, Host.Outcome.next.injEq] at h
    exact h ▸ Effect.cfg fmt mode
  | lutWr len rgb w1 =>
    refine sequenced_effect (by simp) (by simp) h (fun hf ha hk => ?_)
    have hp : s.phase = .config := by simpa [accepts] using ha
    unfold writeLut at hk
    split at hk
    · rw [Host.Outcome.next.injEq] at hk
      exact hk ▸ Effect.trap _ _ hf (by simp) (by simp) (by simp)
    · split at hk
      · rw [Host.Outcome.next.injEq] at hk
        exact hk ▸ Effect.trap _ _ hf (by simp) (by simp) (by simp)
      · split at hk
        · rw [Host.Outcome.next.injEq] at hk
          exact hk ▸ Effect.trap _ _ hf (by simp) (by simp) (by simp)
        · split at hk
          · cases hk
          · rename_i hl hne hlt
            rw [Host.Outcome.next.injEq] at hk
            refine hk ▸ Effect.lutWr len rgb w1 hp (by simpa using hl) ?_
            have h1 : ¬ s.params.lutDepth.toNat < s.lutCount.toNat := hlt
            have h2 : s.lutCount.toNat ≠ s.params.lutDepth.toNat := fun h => hne (BitVec.eq_of_toNat_eq h)
            omega
  | lutDef =>
    refine sequenced_effect (by simp) (by simp) h (fun hf ha hk => ?_)
    have hp : s.phase = .config ∧ s.lutCount = 0 := by simpa [accepts] using ha
    unfold loadDefault at hk
    split at hk
    · rename_i ht
      rw [Host.Outcome.next.injEq] at hk
      exact hk ▸ Effect.lutDef hp.1 hp.2 ht
    · cases hk
  | fileWr b =>
    refine sequenced_effect (by simp) (by simp) h (fun hf ha hk => ?_)
    have hp : s.phase = .config ∨ s.phase = .lutDef := by simpa [accepts] using ha
    unfold writeFile at hk
    split at hk
    · rw [Host.Outcome.next.injEq] at hk
      exact hk ▸ Effect.trap _ _ hf (by simp) (by simp) (by simp)
    · split at hk
      · cases hk
      · rename_i hne hlt
        rw [Host.Outcome.next.injEq] at hk
        refine hk ▸ Effect.fileWr b hp ?_
        have h1 : ¬ s.params.fileMax.toNat < s.fileLen.toNat := hlt
        have h2 : s.fileLen.toNat ≠ s.params.fileMax.toNat := fun h => hne (BitVec.eq_of_toNat_eq h)
        omega
  | hdr =>
    refine sequenced_effect (by simp) (by simp) h (fun hf ha hk => ?_)
    have hp : s.phase = .config ∨ s.phase = .lutDef := by simpa [accepts] using ha
    unfold takeHeader at hk
    split at hk
    · rw [Host.Outcome.next.injEq] at hk
      exact hk ▸ Effect.trap _ _ hf (by simp) (by simp) (by simp)
    · split at hk
      · cases hk
      · rename_i h26 _
        rw [Host.Outcome.next.injEq] at hk
        unfold checkHeader at hk
        split at hk
        · exact hk ▸ Effect.hdrTrap _ hp (by simp)
        · split at hk
          · exact hk ▸ Effect.hdrTrap _ hp (by simp)
          · rename_i hd hn
            exact hk ▸ Effect.hdr hp (by omega) (by simpa using hd) (by simpa using hn)
  | classify =>
    refine sequenced_effect (by simp) (by simp) h (fun hf ha hk => ?_)
    have hp : s.phase = .hdrOk := by simpa [accepts] using ha
    unfold classifyImage at hk
    split at hk
    · cases hk
    · split at hk
      · cases hk
      · split at hk
        · cases hk
        · rename_i hn
          split at hk
          · rename_i t' ht
            rw [Host.Outcome.next.injEq] at hk
            exact hk ▸ Effect.trap _ _ hf (State.classifyAll_code ht) (by simp) (by simp)
          · rename_i px hpx
            rw [Host.Outcome.next.injEq] at hk
            exact hk ▸ Effect.classify px hp (by omega) hpx
  | encode =>
    refine sequenced_effect (by simp) (by simp) h (fun hf ha hk => ?_)
    have hp : s.phase = .classified := by simpa [accepts] using ha
    unfold encodeImage at hk
    split at hk
    · cases hk
    · split at hk
      · rename_i t' ht
        rw [Host.Outcome.next.injEq] at hk
        exact hk ▸ Effect.trap _ _ hf (State.encoded_code ht) (by simp) (by simp)
      · rename_i e he
        rw [Host.Outcome.next.injEq] at hk
        unfold finishOutput at hk
        rw [State.warnIf_params] at hk
        split at hk
        · exact hk ▸ Effect.encodeTrap e _ hp he (by simp) (State.encoded_warn he)
        · rename_i hl
          exact hk ▸ Effect.encode e hp he (by omega) (State.encoded_warn he)
  | illegal w =>
    simp only [exec, execIllegal] at h
    split at h
    · rename_i hf
      rw [Host.Outcome.next.injEq] at h
      exact h ▸ Effect.ignored _ hf (by simp)
    · rename_i hf
      rw [Host.Outcome.next.injEq] at h
      exact h ▸ Effect.trap _ _ hf (by simp) (by simp) (by simp)

/-- Everything a step can do when it answers a next state: it idles, serves a read, a reset or a selector write, ignores a
write, latches a LUT_WR's first word, or runs the command a CMD write completes. -/
inductive StepEffect (s : State) : State → Prop
  | idle : s.requests = [] → StepEffect s s
  | read (off rest) : s.requests = .read off :: rest →
      StepEffect s { s with requests := rest, answers := s.answers ++ [s.hostRead off] }
  | reset (rest) : s.requests = .reset :: rest → StepEffect s { State.reset with
      params := s.params, requests := rest, answers := s.answers }
  | write (off v rest a b c) : s.requests = .write off v :: rest → off ≠ 0 →
      StepEffect s { s with requests := rest, outSel := a, idxSel := b, lutSel := c }
  | latch (w rest) : s.requests = .write 0 w :: rest → s.awaitOperand = false → opcodeOf w = 2 →
      StepEffect s (({ s with requests := rest } : State).latch w)
  | operand (w rest t) : s.requests = .write 0 w :: rest → s.awaitOperand = true →
      Effect (({ s with requests := rest } : State).unlatch) (lutWrOf s.pending w) t → StepEffect s t
  | command (w rest i t) : s.requests = .write 0 w :: rest → s.awaitOperand = false → decode [w] = .ok (i, []) →
      Effect { s with requests := rest } i t → StepEffect s t

/-- One word decodes to a command and no word after it, or is a LUT_WR's first. -/
theorem decode_singleton (w : Word) :
    (opcodeOf w = 2 ∧ decode [w] = .error .needsOperand)
      ∨ (opcodeOf w ≠ 2 ∧ decode [w] = .ok (decodeCommand w 0, [])) := by
  by_cases h : opcodeOf w = 2
  · exact Or.inl ⟨h, by simp only [decode, if_pos h]⟩
  · exact Or.inr ⟨h, by simp only [decode, if_neg h]⟩

/-- Everything a step can do when it answers a next state. -/
theorem step_effect {s t : State} (h : step s = .next t) : StepEffect s t := by
  unfold step serveNext at h
  split at h
  · rename_i hr
    rw [Host.Outcome.next.injEq] at h
    exact h ▸ StepEffect.idle hr
  · rename_i a rest hr
    unfold serve at h
    split at h
    · rename_i off v
      unfold hostWrite at h
      split at h
      · rename_i h0
        have h0 : off = 0 := BitVec.eq_of_toNat_eq h0
        subst h0
        unfold deliver at h
        split at h
        · rename_i hw
          exact StepEffect.operand v rest t hr hw (exec_effect h)
        · rename_i hw
          rcases decode_singleton v with ⟨ho, hd⟩ | ⟨ho, hd⟩
          · rw [hd] at h
            simp only [Host.Outcome.next.injEq] at h
            exact h ▸ StepEffect.latch v rest hr (by simpa using hw) ho
          · rw [hd] at h
            exact StepEffect.command v rest _ t hr (by simpa using hw) hd (exec_effect h)
      all_goals
        rename_i h0
        rw [Host.Outcome.next.injEq] at h
      · exact h ▸ StepEffect.write off v rest v s.idxSel s.lutSel hr (by rintro rfl; simp at h0)
      · exact h ▸ StepEffect.write off v rest s.outSel v s.lutSel hr (by rintro rfl; simp at h0)
      · exact h ▸ StepEffect.write off v rest s.outSel s.idxSel v hr (by rintro rfl; simp at h0)
      · rename_i h1 _ _
        exact h ▸ StepEffect.write off v rest s.outSel s.idxSel s.lutSel hr (by rintro rfl; exact h1 rfl)
    · rename_i off
      rw [Host.Outcome.next.injEq] at h
      exact h ▸ StepEffect.read off rest hr
    · rw [Host.Outcome.next.injEq] at h
      exact h ▸ StepEffect.reset rest hr

end Sys2Proof.Machine
end

