-- ==== Sys2Proof/Laws/Words.lean ====
section
/-! SUPPORT. Joined bit fields as numbers, and the number of a word's OPC field. -/

namespace Sys2Proof

/-- Two joined fields as a number. -/
theorem toNat_joined {v w : Nat} (x : BitVec v) (y : BitVec w) : (x ++ y).toNat = x.toNat * 2 ^ w + y.toNat := by
  rw [BitVec.toNat_append, ← Nat.shiftLeft_add_eq_or_of_lt y.isLt, Nat.shiftLeft_eq]

/-- OPC as a number (R55). -/
theorem toNat_opcodeOf (w : Word) : (opcodeOf w).toNat = w.toNat / 2 ^ 28 := by
  have h := w.isLt
  simp only [opcodeOf, BitVec.extractLsb'_toNat, Nat.shiftRight_eq_div_pow]
  omega

end Sys2Proof
end

