-- ==== Sys2Proof/Laws/Ops.lean ====
section
/-! SUPPORT. What the shared operations over registers, memory and operands do: the canonical form every memory operation keeps, sizes that fit their registers, legal indices, default tables, the header fields and the table after a load. -/

namespace Sys2Proof.Machine

/-- The canonical form, space by space. -/
theorem Memory.wf_iff {m : Memory} :
    m.wf = true ↔
      Store.wf Config.unlistedByte m.file = true ∧ Store.wf Config.unlistedIndex m.idx = true
        ∧ Store.wf unlistedToken m.out = true ∧ Store.wf Config.unlistedEntry m.lut = true := by
  simp [Memory.wf, Bool.and_eq_true, and_assoc]

/-- Reset's memory is in canonical form. -/
theorem State.reset_memoryOk : State.reset.MemoryOk := rfl

theorem State.appendLut_memoryOk {s : State} {e : LutEntry} (h : s.MemoryOk) : (s.appendLut e).MemoryOk := by
  rw [State.MemoryOk, Memory.wf_iff] at *
  simpa using ⟨h.1, h.2.1, h.2.2.1, Store.write_wf h.2.2.2⟩

theorem State.loadTable_memoryOk {s : State} {t : List LutEntry} (h : s.MemoryOk) : (s.loadTable t).MemoryOk := by
  rw [State.MemoryOk, Memory.wf_iff] at *
  simpa using ⟨h.1, h.2.1, h.2.2.1, Store.writeFrom_wf h.2.2.2⟩

theorem State.appendFile_memoryOk {s : State} {b : Byte} (h : s.MemoryOk) : (s.appendFile b).MemoryOk := by
  rw [State.MemoryOk, Memory.wf_iff] at *
  simpa using ⟨Store.write_wf h.1, h.2⟩

theorem State.storeIndices_memoryOk {s : State} {px : List Nibble} (h : s.MemoryOk) :
    (s.storeIndices px).MemoryOk := by
  rw [State.MemoryOk, Memory.wf_iff] at *
  simpa using ⟨h.1, Store.writeFrom_wf h.2.1, h.2.2⟩

theorem State.storeOutput_memoryOk {s : State} {ts : List Token} (h : s.MemoryOk) :
    (s.storeOutput ts).MemoryOk := by
  rw [State.MemoryOk, Memory.wf_iff] at *
  simpa using ⟨h.1, h.2.1, Store.writeFrom_wf h.2.2.1, h.2.2.2⟩

/-- A number that some register holds fits a register. -/
theorem toNat_ofNat_of_le {n : Nat} {w : Word} (h : n ≤ w.toNat) : (BitVec.ofNat 32 n).toNat = n := by
  have := w.isLt
  simp
  omega

/-- A register below another does not wrap when it is counted up. -/
theorem toNat_succ_of_lt {a b : Word} (h : a.toNat < b.toNat) : (a + 1).toNat = a.toNat + 1 := by
  have := b.isLt
  simp [BitVec.toNat_add]
  omega

/-- Every legal index is one of 0..15 (R67). -/
theorem Mode.legal_range {m : Mode} {v : Int} (h : m.legal v = true) : 0 ≤ v ∧ v ≤ 15 := by
  cases m <;> simp [Mode.legal] at h <;> omega

/-- The 4-bit index LUT_WR stores for a legal operand is the operand's value (R69). -/
theorem legal_stored {m : Mode} {w : Word} (h : m.legal (signedIndex w) = true) :
    m.legalIdx (w.setWidth 4) = true ∧ ((w.setWidth 4).toNat : Int) = w.toInt := by
  have hr := Mode.legal_range h
  have hv : ((w.setWidth 4).toNat : Int) = w.toInt := by
    have := w.isLt
    have hc := BitVec.toInt_eq_toNat_cond w
    unfold signedIndex at hr
    simp only [BitVec.toNat_setWidth]
    split at hc <;> omega
  exact ⟨by unfold Mode.legalIdx; rw [hv]; exact h, hv⟩

/-- An allowed default table fits the LUT (R7). -/
theorem Params.defaultTable_length {p : Params} (h : p.tablesOk = true) (m : Mode) :
    (p.defaultTable m).length ≤ p.lutDepth.toNat := by
  simp only [Params.tablesOk, Bool.and_eq_true, List.all_eq_true, decide_eq_true_eq] at h
  exact h.1.1 _ (Vector.mem_toList_iff.mpr (Vector.getElem_mem _))

/-- An allowed default table is legal for every mode that selects it (R10). -/
theorem Params.defaultTable_legal {p : Params} (h : p.tablesOk = true) (m : Mode) :
    ∀ e ∈ p.defaultTable m, m.legalIdx e.idx = true := by
  simp only [Params.tablesOk, Bool.and_eq_true, List.all_eq_true, decide_eq_true_eq] at h
  exact h.1.2 m (by cases m <;> simp [allModes])

/-- A found index is some entry's. -/
theorem lookupIn_mem : ∀ {tb : List LutEntry} {rgb : Rgb} {v : Nibble}, lookupIn tb rgb = some v →
    ∃ e ∈ tb, e.rgb = rgb ∧ e.idx = v
  | [], _, _, h => by simp [lookupIn] at h
  | e :: es, rgb, v, h => by
    unfold lookupIn at h
    split at h
    · exact ⟨e, by simp, ‹_›, by simpa using h⟩
    · obtain ⟨x, hx, hv⟩ := lookupIn_mem h
      exact ⟨x, by simp [hx], hv⟩

/-- A lookup fails exactly where no entry has the colour. -/
theorem lookupIn_none : ∀ {tb : List LutEntry} {rgb : Rgb}, lookupIn tb rgb = none ↔ ∀ e ∈ tb, e.rgb ≠ rgb
  | [], _ => by simp [lookupIn]
  | e :: es, rgb => by
    unfold lookupIn
    split
    · simp_all
    · simp_all [lookupIn_none]

/-- The first entry with the colour gives its index (R77). -/
theorem lookupIn_first : ∀ {tb : List LutEntry} {rgb : Rgb} {k : Nat} (hk : k < tb.length), tb[k].rgb = rgb →
    (∀ j (hj : j < k), (tb[j]'(by omega)).rgb ≠ rgb) → lookupIn tb rgb = some tb[k].idx
  | [], _, _, hk, _, _ => by simp at hk
  | e :: es, rgb, 0, _, h, _ => by simp_all [lookupIn]
  | e :: es, rgb, k + 1, hk, h, hn => by
    have h0 : e.rgb ≠ rgb := hn 0 (by omega)
    simp only [lookupIn, h0, if_false, List.getElem_cons_succ]
    exact lookupIn_first (by simpa using hk) (by simpa using h) (fun j hj => by simpa using hn (j + 1) (by omega))

/-- The table after a load is the loaded list. -/
theorem State.loadTable_table {s : State} {t : List LutEntry} (hw : s.MemoryOk) (ht : t.length < 2 ^ 32) :
    (s.loadTable t).table = t := by
  have hm := Store.map_read_writeFrom (vs := t) (Memory.wf_iff.mp hw).2.2.2
  unfold State.table
  simp only [State.loadTable_lutCount, BitVec.toNat_ofNat, Nat.mod_eq_of_lt ht]
  exact hm

/-- The visible output after a store is the stored list. -/
theorem State.storeOutput_output {s : State} {ts : List Token} (hw : s.MemoryOk) (ht : ts.length < 2 ^ 32) :
    (s.storeOutput ts).output = ts := by
  have hm := Store.map_read_writeFrom (vs := ts) (Memory.wf_iff.mp hw).2.2.1
  unfold State.output
  simp only [State.storeOutput_outLen, BitVec.toNat_ofNat, Nat.mod_eq_of_lt ht]
  exact hm

/-- The header fields HDR reads, as numbers (R73, R48). -/
theorem State.headerWord_eq (s : State) (a : Nat) : s.headerWord a = BitVec.ofNat 32 (s.headerValue a) := by
  simp only [State.headerWord, State.headerValue, State.fileLE, Nat.add_assoc, Nat.reduceAdd]
  congr 1
  omega

/-- What HDR has read before its checks. -/
theorem State.readHeader_eq (s : State) :
    s.readHeader = s.withHeader (s.headerValue 10) (s.headerValue 18) (s.headerValue 22) := by
  simp only [State.readHeader, State.withHeader, State.headerWord_eq]

/-- CLASSIFY gives one index per pixel (R78). -/
theorem State.classifyAll_length {s : State} {px : List Nibble} (h : s.classifyAll = .ok px) :
    px.length = s.pixelCount := by
  simpa using tryMap_length h

/-- The offset CLASSIFY fetches from is R76's. -/
theorem State.pixelOffset_eq (s : State) (i : Nat) : s.pixelOffset i = s.pixelStart i := rfl

/-- A pixel is present exactly where the fetch does not fault (R41, R76). -/
theorem State.pixelPresent_iff {s : State} {i : Nat} : s.PixelPresent i ↔ s.pixelStart i + 2 < s.rawLen := by
  unfold State.PixelPresent State.rawLen
  omega

/-- The colour CLASSIFY fetches, by its numbers (R76). -/
theorem State.colorAt_eq (s : State) (i : Nat) : s.colorAt (s.pixelStart i) = s.pixelColor i := by
  apply BitVec.eq_of_toNat_eq
  have h0 := (s.fileAt (s.dataOff.toNat + s.pixelStart i)).isLt
  have h1 := (s.fileAt (s.dataOff.toNat + s.pixelStart i + 1)).isLt
  have h2 := (s.fileAt (s.dataOff.toNat + s.pixelStart i + 2)).isLt
  simp only [State.colorAt, State.rawAt, State.pixelColor, toNat_joined, BitVec.toNat_ofNat, ← Nat.add_assoc]
  omega

/-- The fetch of a present pixel answers its colour (R76). -/
theorem State.fetchPixel_of_present {s : State} {i : Nat} (h : s.PixelPresent i) :
    s.fetchPixel i = .ok (s.pixelColor i) := by
  have hp := State.pixelPresent_iff.mp h
  have hn : ¬ s.rawLen ≤ s.pixelOffset i + 2 := by
    rw [State.pixelOffset_eq]
    omega
  simp only [State.fetchPixel, hn, if_false]
  exact congrArg Except.ok (State.colorAt_eq s i)

/-- The fetch of a pixel that is not present raises OutOfRange (R76). -/
theorem State.fetchPixel_of_missing {s : State} {i : Nat} (h : ¬ s.PixelPresent i) :
    s.fetchPixel i = .error ⟨.outOfRange, 0, clamp32 i, clamp32 (s.pixelStart i + 2), 0⟩ := by
  rw [State.pixelPresent_iff] at h
  have hm : s.rawLen ≤ s.pixelOffset i + 2 := by
    rw [State.pixelOffset_eq]
    omega
  simp only [State.fetchPixel, hm, if_true]
  rfl

/-- A pixel without an index is one whose colour no entry has, outside SCREEN0 (R77). -/
theorem State.not_pixelMapped_iff {s : State} {i : Nat} :
    ¬ s.PixelMapped i ↔ lookupIn s.table (s.pixelColor i) = none ∧ s.mode ≠ .screen0 := by
  rw [lookupIn_none]
  simp [State.PixelMapped, State.table]

end Sys2Proof.Machine
end

