-- ==== Sys2Proof/Laws/Encode.lean ====
section
/-! SUPPORT. What ENCODE does, given what its encoder does; and the encoders' shared pieces: mask bytes and block rows. -/

namespace Sys2Proof.Machine

/-- An encoder that faults ends ENCODE in that fault (R79, R80). -/
theorem exec_encode_error {s : State} {fmt : Format} {mode : Mode} {t : Trap} (hr : s.EncodeReady fmt mode)
    (he : s.encoded = .error t) : exec .encode s = .next (s.raise t) := by
  obtain ⟨hp, -, hm, hd, hn, -⟩ := hr
  rw [← hm] at hd
  simp [exec, execEncode, sequenced, accepts, hp, encodeImage, hd, Nat.not_lt.mpr hn, he]

/-- An encoder that ends without a fault, its output within OUT_MAX, gives the visible output (R79, R44). -/
theorem exec_encode_ok {s : State} {fmt : Format} {mode : Mode} {e : Encoded} (hr : s.EncodeReady fmt mode)
    (he : s.encoded = .ok e) (hl : e.tokens.length ≤ s.params.outMax.toNat) : s.EncodesTo e.tokens e.warnEmpty := by
  obtain ⟨hp, -, hm, hd, hn, hw⟩ := hr
  rw [← hm] at hd
  have hlt : e.tokens.length < 2 ^ 32 := Nat.lt_of_le_of_lt hl s.params.outMax.isLt
  refine ⟨(s.warnIf e.warnEmpty).storeOutput e.tokens, ?_, ?_, rfl⟩
  · simp [exec, execEncode, sequenced, accepts, hp, encodeImage, hd, Nat.not_lt.mpr hn, he, finishOutput,
      Nat.not_lt.mpr hl]
  · exact State.storeOutput_output (s := s.warnIf e.warnEmpty) hw hlt

/-- The bits of an OR of selected single bits. -/
theorem foldl_mask_bit (p : Nat → Bool) {j : Nat} (hj : j < 8) : ∀ (cs : List Nat) (b : Byte),
    (cs.foldl (fun b c => if p c then b ||| (1#8 <<< (7 - c)) else b) b).getLsbD j
      = (b.getLsbD j || cs.any (fun c => p c && decide (7 - c = j)))
  | [], b => by simp
  | c :: cs, b => by
    rw [List.foldl_cons, foldl_mask_bit p hj cs]
    by_cases h : p c = true
    · by_cases hc : 7 - c = j
      · simp [h, hc, hj]
      · have h1 : (1#8 <<< (7 - c)).getLsbD j = false := by
          simp [BitVec.getLsbD_shiftLeft]
          omega
        simp only [h, if_true, BitVec.getLsbD_or, h1]
        simp [h, hc]
    · simp [h]

/-- Bit `7 - c` of a mask byte is set iff `p c`. -/
theorem maskByte_bit (p : Nat → Bool) {c : Nat} (hc : c < 8) : (maskByte p).getLsbD (7 - c) = p c := by
  unfold maskByte
  rw [foldl_mask_bit p (by omega), Bool.eq_iff_iff]
  simp only [BitVec.ofNat_eq_ofNat, BitVec.getLsbD_zero, Bool.false_or, List.any_eq_true, List.mem_range,
    Bool.and_eq_true, decide_eq_true_eq]
  constructor
  · rintro ⟨x, hx, hp, h⟩
    obtain rfl : x = c := by omega
    exact hp
  · exact fun h => ⟨c, hc, h, rfl⟩

/-- The bits of an OR of bytes. -/
theorem foldl_or_bit (f : Nat → Byte) (j : Nat) : ∀ (cs : List Nat) (b : Byte),
    (cs.foldl (fun b c => b ||| f c) b).getLsbD j = (b.getLsbD j || cs.any (fun c => (f c).getLsbD j))
  | [], b => by simp
  | c :: cs, b => by
    rw [List.foldl_cons, foldl_or_bit f j cs]
    simp [Bool.or_assoc]

/-- The block rows in visiting order, numbered (R88). -/
theorem blockRows_eq (nb : Nat) : blockRows nb = (List.range (8 * nb)).map (fun q => (q / 8, q % 8)) := by
  unfold blockRows
  induction nb with
  | zero => rfl
  | succ n ih =>
    rw [List.range_succ (n := n), List.flatMap_append, ih, Nat.mul_succ, List.range_add, List.map_append, List.map_map]
    congr 1
    simp only [List.flatMap_cons, List.flatMap_nil, List.append_nil]
    apply List.map_congr_left
    intro j hj
    simp at hj
    simp
    omega

end Sys2Proof.Machine
end

