-- ==== Sys2Proof/Laws/Host.lean ====
section
/-! SUPPORT. What the host's own definitions give: the end of a run, exit codes and addresses of registers. -/

namespace Sys2Proof.Machine

/-- A state shows a result exactly where PHASE is DONE or FAULT (R107). -/
theorem State.shownResult_isSome (s : State) : s.shownResult.isSome = s.ended := by
  cases h : s.phase <;> simp [State.shownResult, State.ended, h]

/-- An ended state is its own first ended state: what the host sends after it does not matter (R107). -/
theorem State.endWithin_of_ended {s : State} (h : s.ended = true) (n : Nat) : s.endWithin n = some s := by
  cases n <;> simp [State.endWithin, h]

/-- A state that has not ended hands on to the next one, unless the run is discarded (R107, R97). -/
theorem State.endWithin_step {s t : State} {n : Nat} (h : s.ended = false) (hd : s.discardsRun = false)
    (ht : step s = .next t) : s.endWithin (n + 1) = t.endWithin n := by
  simp [State.endWithin, h, hd, ht]

/-- The state `endWithin` answers has ended (R107). -/
theorem State.endWithin_ended {n : Nat} : ∀ {s e : State}, s.endWithin n = some e → e.ended = true := by
  induction n with
  | zero => simp only [State.endWithin]; grind
  | succ n ih => simp only [State.endWithin]; grind

/-- PHASE is DONE or FAULT at a run's end (R107). -/
theorem State.runEnd_ended {s e : State} (h : s.runEnd = some e) : e.ended = true := by
  unfold State.runEnd at h
  split at h
  · split at h
    · exact State.endWithin_ended h
    · cases h
    · cases h
  · cases h

/-- A run has a result exactly where it has an end (R107). -/
theorem State.runResult_isSome (s : State) : s.runResult.isSome = s.runEnd.isSome := by
  unfold State.runResult
  cases h : s.runEnd with
  | none => rfl
  | some e => simp [State.shownResult_isSome, State.runEnd_ended h]

/-- The process exits with 0 exactly where the run ends in phase DONE (R12, R107). -/
theorem State.exitStatus_zero {exitCode : Mode → FaultCode → ExitCode} {s : State} :
    s.exitStatus exitCode = some 0 ↔ ∃ e, s.runEnd = some e ∧ e.phase = .done := by
  unfold State.exitStatus
  cases he : s.runEnd with
  | none => simp
  | some e =>
    have hn := (exitCode e.mode e.faultCode).property
    cases h : e.phase <;> simp [State.shownResult, RunResult.exitStatus, h, hn]

/-- A register is found at its address, wherever the block stands (R51). -/
theorem blockOffset_registerAddress (ppleBase : Nat) (offset : Word) :
    blockOffset ppleBase (registerAddress ppleBase offset) = some offset := by
  have h := offset.isLt
  simp [blockOffset, registerAddress, h]

/-- An address below PPLE_BASE is not the block's (R51). -/
theorem blockOffset_below {ppleBase address : Nat} (h : address < ppleBase) : blockOffset ppleBase address = none := by
  simp [blockOffset, Nat.not_le.mpr h]

end Sys2Proof.Machine
end

