-- ==== Sys2Proof/Laws/PerInstr.lean ====
section
/-! SUPPORT. A law of every command as syntax, one lemma per constructor: how many words it has and what the top four bits of its first word are (30_encoding.md R55 to R57). -/

namespace Sys2Proof.Laws.Length

/-- OPC, the top four bits of a command's first word; an illegal word keeps its own (R57, R61). -/
def opcode : Instr → Nat
  | .nop _ => 0
  | .cfg _ _ => 1
  | .lutWr _ _ _ => 2
  | .lutDef => 3
  | .fileWr _ => 4
  | .hdr => 5
  | .classify => 6
  | .encode => 7
  | .illegal w => w.toNat / 2 ^ 28

/-- The first word carries the command's OPC, and only LUT_WR has a second word (R56). -/
def Statement (i : Instr) : Prop :=
  (opcodeOf i.firstWord).toNat = opcode i
    ∧ (encode i).length = match i with
      | .lutWr _ _ _ => 2
      | _ => 1

theorem nop (hint : BitVec 28) : Statement (.nop hint) := by
  have h := hint.isLt
  refine ⟨?_, rfl⟩
  rw [toNat_opcodeOf, Instr.firstWord, toNat_joined]
  simp only [opcode, BitVec.toNat_ofNat]
  omega

theorem cfg (fmt : Format) (mode : Mode) : Statement (.cfg fmt mode) := by
  cases fmt <;> cases mode <;> exact ⟨rfl, rfl⟩

theorem lutWr (len : BitVec 4) (rgb : Rgb) (w1 : Word) : Statement (.lutWr len rgb w1) := by
  have hl := len.isLt
  have hr := rgb.isLt
  refine ⟨?_, rfl⟩
  rw [toNat_opcodeOf, Instr.firstWord, toNat_joined, toNat_joined]
  simp only [opcode, BitVec.toNat_ofNat]
  omega

theorem lutDef : Statement .lutDef := ⟨rfl, rfl⟩

theorem fileWr (byte : Byte) : Statement (.fileWr byte) := by
  have h := byte.isLt
  refine ⟨?_, rfl⟩
  rw [toNat_opcodeOf, Instr.firstWord, toNat_joined, toNat_joined]
  simp only [opcode, BitVec.toNat_ofNat]
  omega

theorem hdr : Statement .hdr := ⟨rfl, rfl⟩

theorem classify : Statement .classify := ⟨rfl, rfl⟩

theorem encode : Statement .encode := ⟨rfl, rfl⟩

theorem illegal (w : Word) : Statement (.illegal w) := ⟨toNat_opcodeOf w, rfl⟩

end Sys2Proof.Laws.Length
end

