-- ==== Sys2Proof/Laws/Port.lean ====
section
/-! SUPPORT. What a word does on its way into the block: the length rule of R56 by numbers, the second word of a LUT_WR, a delivered word, and the commands phase FAULT ignores. -/

namespace Sys2Proof.Machine

/-- OPC 2 by the word's number (R55, R56). -/
theorem opcodeOf_eq_two {w : Word} : opcodeOf w = 2 ↔ w.toNat / 2 ^ 28 = 2 := by
  rw [← BitVec.toNat_inj, toNat_opcodeOf]
  rfl

/-- A LUT_WR's fields by its first word's number (R57, R58). -/
theorem lutWrOf_eq (w w1 : Word) :
    lutWrOf w w1 = .lutWr (BitVec.ofNat 4 (w.toNat / 2 ^ 24)) (BitVec.ofNat 24 w.toNat) w1 := by
  simp only [lutWrOf]
  congr 1
  exact BitVec.eq_of_toNat_eq (by simp [Nat.shiftRight_eq_div_pow])

/-- A word with OPC other than 2 is a whole command (R56). -/
theorem decode_one {w : Word} (h : w.toNat / 2 ^ 28 ≠ 2) : decode [w] = .ok (decodeCommand w 0, []) := by
  simp only [decode, if_neg (fun h2 => h (opcodeOf_eq_two.mp h2))]

/-- A word with OPC 2 waits for its second word (R56). -/
theorem decode_two {w : Word} (h : w.toNat / 2 ^ 28 = 2) : decode [w] = .error .needsOperand := by
  simp only [decode, if_pos (opcodeOf_eq_two.mpr h)]

/-- A CMD write is delivered to the engine (R46, R47). -/
theorem step_cmd {s : State} {w : Word} {rest : List HostAccess} (h : s.requests = .write 0 w :: rest) :
    step s = deliver w { s with requests := rest } := by
  simp [step, serveNext, h, serve, hostWrite]

/-- Every command but CFG is ignored in phase FAULT (R96). -/
theorem exec_ignored {i : Instr} {s : State} (h : s.phase = .fault) (hi : ∀ fmt mode, i ≠ .cfg fmt mode) :
    exec i s = .next s := by
  cases i with
  | cfg fmt mode => exact absurd rfl (hi fmt mode)
  | _ =>
    simp [exec, execNop, execLutWr, execLutDef, execFileWr, execHdr, execClassify, execEncode, execIllegal,
      sequenced, h]

end Sys2Proof.Machine
end

