-- ==== Sys2Proof/Machine/Assembler.lean ====
section
/-! DEFINITION. The spec's assembler lines as data: the words each stands for, the command, and its text (30_encoding.md R63). No step of the machine uses this file (log entry 18). -/

namespace Sys2Proof.Machine

/-- One assembler line (R63). -/
inductive AsmLine where
  /-- `nop` -/
  | nop
  /-- `nop #h` -/
  | nopHint (h : Word)
  /-- `cfg MODE, asm` and `cfg MODE, sif` -/
  | cfg (mode : Mode) (fmt : Format)
  /-- `lutwr #RRGGBB, idx` -/
  | lutwr (rgb : Rgb) (idx : Int)
  /-- `lutwr.l<n> #RRGGBB, idx` -/
  | lutwrLen (n : BitVec 4) (rgb : Rgb) (idx : Int)
  /-- `lutdef` -/
  | lutdef
  /-- `filewr #bb` -/
  | filewr (b : Byte)
  /-- `hdr` -/
  | hdr
  /-- `classify` -/
  | classify
  /-- `encode` -/
  | encode
  deriving DecidableEq, Repr

/-- The words of a line, R63's second column. An index outside -2^31 .. 2^31-1 is taken modulo 2^32 (log entry 21, DESIGN
CHOICE). -/
def AsmLine.words : AsmLine → List Word
  | .nop => [0x00000000]
  | .nopHint h => [h &&& 0x0FFFFFFF]
  | .cfg mode fmt => [0x10000000 ||| fmt.bit.setWidth 32 <<< 4 ||| mode.bits.setWidth 32]
  | .lutwr rgb idx => [0x23000000 ||| rgb.setWidth 32, BitVec.ofInt 32 idx]
  | .lutwrLen n rgb idx => [0x20000000 ||| n.setWidth 32 <<< 24 ||| rgb.setWidth 32, BitVec.ofInt 32 idx]
  | .lutdef => [0x30000000]
  | .filewr b => [0x40000000 ||| b.setWidth 32]
  | .hdr => [0x50000000]
  | .classify => [0x60000000]
  | .encode => [0x70000000]

/-- The command a line stands for; its index is taken as in `AsmLine.words` (log entry 21). -/
def AsmLine.instr : AsmLine → Instr
  | .nop => .nop 0
  | .nopHint h => .nop (h.setWidth 28)
  | .cfg mode fmt => .cfg fmt mode
  | .lutwr rgb idx => .lutWr 3 rgb (BitVec.ofInt 32 idx)
  | .lutwrLen n rgb idx => .lutWr n rgb (BitVec.ofInt 32 idx)
  | .lutdef => .lutDef
  | .filewr b => .fileWr b
  | .hdr => .hdr
  | .classify => .classify
  | .encode => .encode

/-- `#` and `n` hexadecimal digits. -/
def hexLiteral (n v : Nat) : String :=
  "#" ++ String.ofList ((List.range n).map (fun i =>
    let d := v / 16 ^ (n - 1 - i) % 16
    Char.ofNat (if d < 10 then 48 + d else 55 + d)))

/-- The mnemonic of a mode (10_state.md R25). -/
def Mode.text : Mode → String
  | .screen0 => "SCREEN0"
  | .screen1 => "SCREEN1"
  | .tile2lc => "TILE2LC"
  | .screen3 => "SCREEN3"
  | .screen5 => "SCREEN5"
  | .screen6 => "SCREEN6"
  | .sprite1 => "SPRITE1"
  | .spritelc => "SPRITELC"

/-- The text of a line (R63), its literals in hexadecimal and its indices in decimal (log entry 18). -/
def AsmLine.text : AsmLine → String
  | .nop => "nop"
  | .nopHint h => "nop " ++ hexLiteral 8 h.toNat
  | .cfg mode .asm => "cfg " ++ Mode.text mode ++ ", asm"
  | .cfg mode .sif => "cfg " ++ Mode.text mode ++ ", sif"
  | .lutwr rgb idx => "lutwr " ++ hexLiteral 6 rgb.toNat ++ ", " ++ toString idx
  | .lutwrLen n rgb idx =>
    "lutwr.l" ++ toString n.toNat ++ " " ++ hexLiteral 6 rgb.toNat ++ ", " ++ toString idx
  | .lutdef => "lutdef"
  | .filewr b => "filewr " ++ hexLiteral 2 b.toNat
  | .hdr => "hdr"
  | .classify => "classify"
  | .encode => "encode"

end Sys2Proof.Machine
end

