-- ==== Sys2Proof/Tests/Slice0.lean ====
section
/-! SUPPORT. The model's own tests: terms WellFormed refuses, words the decoder must read, one-step tests with the results of spec/95_test_vectors.md, and for every obligation with hypotheses a state and operands that meet them. -/

namespace Sys2Proof.Tests

open Sys2Proof.Machine

/-! ### Helpers -/

/-- The next state of an outcome, where it has one. -/
def nextOf (r : Result) : Option State :=
  match r with
  | .next s => some s
  | .fault _ => none
  | .refused _ => none

/-- One step that runs the command with these table bits. -/
def ran (s : State) (nbits w : Nat) : Option State := nextOf (step (s.withFetchWord nbits w))

/-- What the host sees first: STATUS and FAULT_INFO. -/
def seen (s : State) : Word × FaultInfo := (s.statusWord, s.faultInfo)

/-- CONFIG(m) of spec/95_test_vectors.md. -/
def configured (mode : Mode) (fmt : Format := .asm) : State := State.reset.newRun fmt mode

/-- A state with one LUT_WR done. -/
def withEntry (mode : Mode) (e : LutEntry) : State := (configured mode).appendLut e

/-- A state in phase CONFIG with a file. -/
def withFile (mode : Mode) (file : List Byte) : State :=
  { configured mode with
    fileLen := BitVec.ofNat 32 file.length
    mem := { State.reset.mem with file := Store.writeFrom Config.unlistedByte 0 file [] } }

/-- The 26 header bytes of a BMP file, as R73 reads them: the data offset, the width, the height; the rest 0. -/
def header (off w h : Word) : List Byte :=
  List.replicate 10 0 ++ (List.range 4).map (fun k => off.extractLsb' (8 * k) 8) ++ List.replicate 4 0
    ++ (List.range 4).map (fun k => w.extractLsb' (8 * k) 8) ++ (List.range 4).map (fun k => h.extractLsb' (8 * k) 8)

/-- A state in phase HDR_OK whose whole file is its raw buffer (DATA_OFF 0). -/
def readyToClassify (mode : Mode) (w h : Word) (raw : List Byte) (entries : List LutEntry) : State :=
  { withFile mode raw with
    phase := .hdrOk
    width := w
    height := h
    lutCount := BitVec.ofNat 32 entries.length
    mem :=
      { State.reset.mem with
        file := Store.writeFrom Config.unlistedByte 0 raw []
        lut := Store.writeFrom Config.unlistedEntry 0 entries [] } }

/-- A state in phase CLASSIFIED with the given non-zero indices. -/
def classified (mode : Mode) (w h : Word) (idx : List (Nat × Nibble)) (fmt : Format := .asm) : State :=
  { configured mode fmt with
    phase := .classified
    width := w
    height := h
    mem := { State.reset.mem with idx := idx } }

/-- The same state with other parameters. -/
def under (p : Params) (s : State) : State := { s with params := p }

/-- The tokens and the status an ENCODE leaves. -/
def encodes (s : State) : Option (Word × List Token) :=
  match nextOf (exec .encode s) with
  | none => none
  | some t => some (t.statusWord, t.output)

/-- DATA tokens. -/
def datas (bs : List Byte) : List Token := bs.map Token.data

/-! ### WellFormed refuses an illegal term whose word the map has, and takes each illegal word of R61 -/

theorem test_illformed_nop_word : (Instr.illegal 0x0ABCDEF0).wf = false := by decide
theorem test_illformed_cfg_word : (Instr.illegal 0x10000017).wf = false ∧ (Instr.illegal 0x10000007).wf = false := by decide
theorem test_illformed_lut_wr_word : (Instr.illegal 0x2FFFFFFF).wf = false := by decide
theorem test_illformed_zero_operand_words :
    [0x30000000, 0x50000000, 0x60000000, 0x70000000].map (fun w => (Instr.illegal w).wf) = List.replicate 4 false := by
  decide
theorem test_illformed_file_wr_word : (Instr.illegal 0x400000FF).wf = false := by decide
theorem test_wellformed_illegal_words :
    [0x80000000, 0xF0000000, 0x10000020, 0x10000008, 0x18000000, 0x30000001, 0x58000000, 0x60000001, 0x70000001,
      0x40000100].map (fun w => (Instr.illegal w).wf) = List.replicate 10 true := by decide

/-! ### Decoding words written out from R57 and R58 -/

theorem test_decode_nop : decodeTableWord 32 0x0ABCDEF0 = some (.nop 0xABCDEF0) := by decide
/-- OPC 0001, reserved bits 0, FMT 1, MODE 0101. -/
theorem test_decode_cfg :
    decodeTableWord 32 0b00010000000000000000000000010101 = some (.cfg .sif .screen6) := by decide
/-- OPC 0010, LEN 0011, RGB 123456; the index word above it. -/
theorem test_decode_lut_wr :
    decodeTableWord 64 (0xFFFFFFFF * 2 ^ 32 + 0b00100011000100100011010001010110)
      = some (.lutWr 3 0x123456 0xFFFFFFFF) := by decide
theorem test_decode_lut_def : decodeTableWord 32 0b00110000000000000000000000000000 = some .lutDef := by decide
theorem test_decode_file_wr : decodeTableWord 32 0b01000000000000000000000010101011 = some (.fileWr 0xAB) := by decide
theorem test_decode_hdr : decodeTableWord 32 0b01010000000000000000000000000000 = some .hdr := by decide
theorem test_decode_classify : decodeTableWord 32 0b01100000000000000000000000000000 = some .classify := by decide
theorem test_decode_encode : decodeTableWord 32 0b01110000000000000000000000000000 = some .encode := by decide
theorem test_decode_illegal :
    decodeTableWord 32 0x10000009 = some (.illegal 0x10000009) ∧ decodeTableWord 32 0x80000000 = some (.illegal 0x80000000)
      ∧ decodeTableWord 32 0x40000100 = some (.illegal 0x40000100) := by decide
theorem test_encode_words :
    encode (.cfg .sif .screen5) = [0x10000014] ∧ encode (.lutWr 3 0xFFFFFF 1) = [0x23FFFFFF, 1]
      ∧ encode (.fileWr 0x42) = [0x40000042] := by decide

/-! ### One step, with the results of spec/95_test_vectors.md -/

/-- C2. -/
theorem test_nop_hint : (ran (configured .screen5) 32 0x0ABCDEF0).map State.statusWord = some 1 := by decide
/-- C3. -/
theorem test_cfg : (ran State.reset 32 0x10000015).map (fun s => (s.statusWord, s.cfgWord)) = some (1, 0x15) := by decide
/-- C7. -/
theorem test_cfg_leaves_fault :
    (ran (State.reset.raise { code := .layoutOpen, a := 16 }) 32 0x10000003).map (fun s => (seen s, s.cfgWord))
      = some ((1, ⟨0, 0, 0, 0⟩), 3) := by decide
/-- C4. -/
theorem test_illegal_mode :
    (ran State.reset 32 0x10000009).map seen = some (0x807, ⟨0x10000009, 0, 0, 0⟩) := by decide
/-- X7: decode comes before sequencing. -/
theorem test_illegal_before_sequence :
    (ran (configured .screen5) 32 0x60000001).map seen = some (0x807, ⟨0x60000001, 0, 0, 0⟩) := by decide
/-- L1. -/
theorem test_lut_wr :
    (ran (configured .screen0) 64 0x0000000123FFFFFF).map (fun s => (s.lutCount, s.hostRead 0x4C))
      = some (1, 0x01FFFFFF) := by decide
/-- L4: an index of -1. -/
theorem test_lut_wr_negative :
    (ran (configured .screen5) 64 0xFFFFFFFF23FFFFFF).map seen = some (0x207, ⟨0, 0xFFFFFFFF, 4, 0⟩) := by decide
/-- L11, with the one entry of the reset parameters' table. -/
theorem test_lut_def :
    (ran (configured .screen0) 32 0x30000000).map (fun s => (s.statusWord, s.lutCount, s.hostRead 0x4C))
      = some (2, 1, 0x01FFFFFF) := by decide +kernel
/-- L10. -/
theorem test_lut_def_after_entry :
    (ran (withEntry .screen5 ⟨1, 1⟩) 32 0x30000000).map (fun s => (seen s, s.lutCount))
      = some ((0x907, ⟨0x30000000, 1, 0, 0⟩), 1) := by decide
/-- I1. -/
theorem test_file_wr :
    (ran (configured .screen5) 32 0x400000AB).map (fun s => (s.fileLen, s.fileAt 0)) = some (1, 0xAB) := by decide
/-- I3, its 27th step. -/
theorem test_file_wr_full :
    (ran (under { Config.resetParams with fileMax := 26 } (withFile .screen5 (List.replicate 26 0))) 32 0x40000000).map
      seen = some (0xA07, ⟨1, 27, 0, 0⟩) := by decide +kernel
/-- I6. -/
theorem test_hdr :
    (ran (withFile .screen0 (header 26 6 0xFFFFFFF8)) 32 0x50000000).map
      (fun s => (s.statusWord, s.dataOff, s.width, s.height)) = some (3, 26, 6, 0xFFFFFFF8) := by decide +kernel
/-- I5: the header registers stay. -/
theorem test_hdr_dimensions :
    (ran (withFile .screen0 (header 26 8 8)) 32 0x50000000).map (fun s => (seen s, s.dataOff, s.width, s.height))
      = some ((0x307, ⟨8, 8, 0, 0⟩), 26, 8, 8) := by decide +kernel
/-- K1. -/
theorem test_classify :
    (ran (readyToClassify .screen5 2 2 [0, 0, 0xFF, 0, 0xFF, 0, 0, 0, 0xFF, 0, 0, 0xFF, 0xFF, 0xFF, 0, 0]
      [⟨0x0000FF, 4⟩, ⟨0xFFFFFF, 15⟩, ⟨0xFF0000, 8⟩, ⟨0x00FF00, 2⟩]) 32 0x60000000).map
      (fun s => (s.statusWord, (List.range 4).map s.idxAt)) = some (4, [4, 15, 8, 2]) := by decide +kernel
/-- K3, with DATA_OFF 0: RAW_LEN is 13. -/
theorem test_classify_out_of_range :
    (ran (readyToClassify .screen5 2 2 (List.replicate 8 0 ++ [0xFF, 0, 0, 0, 0]) [⟨0x0000FF, 1⟩]) 32 0x60000000).map seen
      = some (0xC07, ⟨0, 1, 13, 0⟩) := by decide +kernel
/-- T3, T10, R1, R6, S2, F5, F3: one ENCODE each. -/
theorem test_encode_outputs :
    encodes (classified .screen1 8 8 [(0, 1), (2, 1), (6, 1), (7, 1)])
        = some (0x0D, .sect .main :: datas [0xA3, 0, 0, 0, 0, 0, 0, 0])
      ∧ encodes (classified .screen3 8 8 [(0, 15), (36, 10)]) = some (0x0D, .sect .main :: datas [0xF0, 0x0A])
      ∧ encodes (classified .screen5 3 2 [(0, 1), (1, 2), (2, 3), (3, 4), (4, 5), (5, 6)])
        = some (0x0D, [.sect .main, .data 0x12, .data 0x30, .rowBreak, .data 0x45, .data 0x60, .rowBreak])
      ∧ encodes (classified .screen6 6 1 [(0, 3), (1, 2), (2, 1), (4, 1), (5, 2)])
        = some (0x0D, [.sect .main, .data 0xE4, .data 0x60, .rowBreak])
      ∧ encodes (classified .sprite1 8 8 []) = some (0x1D, .sect .main :: datas (List.replicate 8 0))
      ∧ encodes (classified .screen5 7 1 [(0, 1), (1, 2), (2, 3), (3, 4), (4, 5), (5, 6), (6, 7)] .sif)
        = some (0x0D, datas [0x53, 0x49, 0x46, 8, 0, 1, 0, 0x12, 0x34, 0x56, 0x70])
      ∧ encodes (classified .screen5 1 3 [(0, 1), (1, 2), (2, 3)] .sif)
        = some (0x0D, datas [0x53, 0x49, 0x46, 2, 0, 3, 0, 0x12, 0x30]) := by decide +kernel

/-- T8, S6, S8, S9, S9 top-down, F4: one ENCODE each. -/
theorem test_encode_faults :
    (ran (classified .tile2lc 8 8 [(40, 15), (43, 8), (47, 15)]) 32 0x70000000).map seen
        = some (0x507, ⟨5, 3, 8, 0⟩)
      ∧ (ran (classified .sprite1 8 8 [(0, 1), (63, 2)]) 32 0x70000000).map seen = some (0x607, ⟨0, 7, 7, 0x12⟩)
      ∧ (ran (classified .spritelc 8 8 [(16, 9), (18, 3)]) 32 0x70000000).map seen = some (0x707, ⟨0, 2, 2, 0x93⟩)
      ∧ (ran (classified .spritelc 16 16 [(0, 1)]) 32 0x70000000).map seen = some (0xD07, ⟨16, 16, 0, 0⟩)
      ∧ (ran (classified .spritelc 16 0xFFFFFFF0 [(0, 1)]) 32 0x70000000).map seen = some (0xD07, ⟨16, 16, 0, 0⟩)
      ∧ (ran (classified .screen5 1 1 [(0, 1)] .sif) 32 0x70000000).map seen = some (0xC07, ⟨1, 0, 1, 0⟩) := by
  decide +kernel

/-- R63's lines: the words of R66's and R69's examples and of a negative index, and what they decode to. -/
theorem test_assembler :
    (AsmLine.cfg .screen5 .sif).words = [0x10000014] ∧ (AsmLine.lutwr 0x123456 16).words = [0x23123456, 0x10]
      ∧ decode (AsmLine.lutwrLen 2 0x123400 (-1)).words = .ok ((AsmLine.lutwrLen 2 0x123400 (-1)).instr, [])
      ∧ (AsmLine.lutwr 0xFFFFFF (-1)).text = "lutwr #FFFFFF, -1" := ⟨rfl, rfl, rfl, by decide +kernel⟩

/-- R107 and R12: the run CFG, HDR ends at HDR's fault, with the mapping's exit code, whatever follows; a fault without a CFG is
no run's end; a run the host stops, or starts anew, has none. -/
theorem test_run_end :
    (State.reset.withRun [.cfg .asm .screen5, .hdr, .encode]).runResult = some (.failure .truncatedHeader ⟨0, 0, 0, 0⟩)
      ∧ (State.reset.withRun [.cfg .asm .screen5, .hdr]).exitStatus (fun _ _ => ⟨-3, by decide⟩) = some (-3)
      ∧ (State.reset.withRun [.hdr]).runResult = none
      ∧ (State.reset.withRun [.cfg .asm .screen5, .nop 0]).runResult = none
      ∧ (State.reset.withRun [.cfg .asm .screen5, .cfg .asm .screen5, .hdr]).runResult = none := by decide +kernel

/-- R107: the state after ENCODE is the end, with a success, though a stray ENCODE follows it. -/
theorem test_run_end_success :
    (((classified .screen3 8 8 []).withRun [.encode, .encode]).endWithin 2).bind State.shownResult
      = some (.success (.sect .main :: datas [0, 0]) false) := by decide +kernel

/-- R51: a register 4 bytes into the block, and an address just below it. -/
theorem test_host_side :
    BusAccess.toBlock 0x1000 (.read 0x1004) = some (.read 4)
      ∧ BusAccess.toBlock 0x1000 (.write 0xFFF 7) = none := by decide

/-- R45's pattern: a label line and a `db` line, a new one after a ROWBREAK. -/
theorem test_asm_lines :
    asmLines "arrow" (fun _ => "x") [.sect .main, .data 1, .data 2, .rowBreak, .data 3, .sect .color, .data 9] []
      = ["arrow:", "        db x,x", "        db x", "arrow_color:", "        db x"] := by decide +kernel

/-- The state of the CLASSIFY witnesses: one red pixel. -/
def onePixel (raw : List Byte) (rgb : Rgb) : State := readyToClassify .screen5 1 1 raw [⟨rgb, 4⟩]

/-! ### Witnesses: states and operands that meet the hypotheses of each obligation, for each clause -/

/-- A state with CMD writes waiting. -/
def writing (ws : List Word) (s : State) : State := { s with requests := ws.map (HostAccess.write 0) }

/-- A state in phase FAULT. -/
def faulted : State := State.reset.raise { code := .illegalCommand, a := 0x80000000 }

/-- A waiting LUT_WR. -/
def awaiting (s : State) : State := s.latch 0x23123456

/-- EncodeDecodeRoundTrip: a two-word command with every field full, and an illegal word. -/
theorem witness_round_trip :
    (Instr.lutWr 15 0xFFFFFF 0xFFFFFFFF).wf = true ∧ (Instr.illegal 0x80000000).wf = true := by decide

/-- IllegalAndHintEncodings: the clauses' words at their ends, and the phase. -/
theorem witness_illegal_and_hint :
    (0x80000000 : Word).toNat / 2 ^ 28 ≠ 2 ∧ (0x0FFFFFFF : Word).toNat ≤ 0x0FFFFFFF ∧ State.reset.phase ≠ .fault := by
  decide

/-- MatchMaskRowsSelect: the first and the last row. -/
theorem witness_match_mask :
    (⟨"NOP", 0x00000000, 0xF0000000⟩ : OpcodeRow) ∈ opcodeRows
      ∧ (⟨"ENCODE", 0x70000000, 0xFFFFFFFF⟩ : OpcodeRow) ∈ opcodeRows := by decide

/-- StepRunsDecodedCommand. -/
theorem witness_step_runs :
    (writing [0x50000000] (configured .screen5)).requests = .write 0 0x50000000 :: []
      ∧ (writing [0x50000000] (configured .screen5)).awaitOperand = false
      ∧ decode [0x50000000] = .ok (.hdr, []) := ⟨rfl, rfl, rfl⟩

/-- LutWrWordsPair, its five clauses in order; L13's first step is the second. -/
theorem witness_lut_wr_words :
    ((writing [0x30000000] State.reset).requests = .write 0 0x30000000 :: []
        ∧ (writing [0x30000000] State.reset).awaitOperand = false ∧ (0x30000000 : Word).toNat / 2 ^ 28 ≠ 2)
      ∧ ((writing [0x2FFFFFFF] State.reset).requests = .write 0 0x2FFFFFFF :: []
        ∧ (writing [0x2FFFFFFF] State.reset).awaitOperand = false ∧ (0x2FFFFFFF : Word).toNat / 2 ^ 28 = 2)
      ∧ ((writing [0x10000000] (awaiting State.reset)).requests = .write 0 0x10000000 :: []
        ∧ (writing [0x10000000] (awaiting State.reset)).awaitOperand = true)
      ∧ ((writing [0x10000001] (awaiting faulted)).requests = .write 0 0x10000001 :: []
        ∧ (writing [0x10000001] (awaiting faulted)).awaitOperand = true
        ∧ (writing [0x10000001] (awaiting faulted)).phase = .fault)
      ∧ (let s := { awaiting State.reset with requests := [.read 4] };
        s.requests = .read 4 :: [] ∧ HostAccess.read 4 ≠ .reset ∧ (∀ w, HostAccess.read 4 ≠ .write 0 w)
          ∧ s.awaitOperand = true ∧ (nextOf (step s)).isSome = true) :=
  ⟨by decide, by decide, by decide, by decide, rfl, by decide, by simp, rfl, rfl⟩

/-- PlacedCommandRuns: a one-word and a two-word command. -/
theorem witness_placed :
    decodeTableWord 32 0x70000000 = some .encode ∧ decodeTableWord 64 0x123FFFFFF = some (.lutWr 3 0xFFFFFF 1) := by
  decide

/-- HostReadMap: a reserved offset, an offset that is no multiple of 4, and a waiting read. -/
theorem witness_host_read :
    0x50 ≤ (0x50 : Word).toNat ∧ (0x05 : Word).toNat % 4 ≠ 0
      ∧ ({ State.reset with requests := [.read 0x4C] } : State).requests = .read 0x4C :: [] := by decide

/-- HostWriteEffects: the three selectors and a read-only register. -/
theorem witness_host_write :
    ∀ off ∈ [0x38#32, 0x40#32, 0x48#32, 0x04#32],
      ({ State.reset with requests := [.write off 7] } : State).requests = .write off 7 :: [] ∧ off ≠ 0 := by
  simp

/-- FaultEntryEffect: an HDR, a CLASSIFY and an ENCODE that fault. -/
theorem witness_fault_entry :
    ∀ p ∈ [(Instr.hdr, withFile .screen0 (header 26 8 8)), (.classify, onePixel [0, 0] 0xFF0000),
        (.encode, classified .sprite1 8 8 [(0, 1), (63, 2)])],
      p.2.phase ≠ .fault ∧ (nextOf (exec p.1 p.2)).map State.phase = some .fault := by decide +kernel

/-- ResetRequestRestores, from phase FAULT. -/
theorem witness_reset_request : ({ faulted with requests := [.reset] } : State).requests = .reset :: [] := rfl

/-- FaultPhaseIgnores: the phase, then its four clauses about a word: a discarded operand that is a CFG (X6), a LUT_WR's first
word, a malformed CFG (C8), a CFG (C7). -/
theorem witness_fault_phase :
    faulted.phase = .fault ∧ (∀ fmt mode, Instr.encode ≠ .cfg fmt mode)
      ∧ ((writing [0x10000001] (awaiting faulted)).requests = .write 0 0x10000001 :: []
        ∧ (writing [0x10000001] (awaiting faulted)).phase = .fault
        ∧ (writing [0x10000001] (awaiting faulted)).awaitOperand = true)
      ∧ ((writing [0x23123456] faulted).phase = .fault ∧ (writing [0x23123456] faulted).awaitOperand = false
        ∧ (0x23123456 : Word).toNat / 2 ^ 28 = 2)
      ∧ ((writing [0x10000008] faulted).awaitOperand = false ∧ (0x10000008 : Word).toNat / 2 ^ 28 ≠ 2
        ∧ ¬ ((0x10000008 : Word) &&& 0xFFFFFFE0 = 0x10000000 ∧ (0x10000008 : Word).toNat % 16 ≤ 7))
      ∧ ((writing [0x10000017] faulted).awaitOperand = false ∧ (0x10000017 : Word) &&& 0xFFFFFFE0 = 0x10000000
        ∧ (0x10000017 : Word).toNat % 16 ≤ 7) :=
  ⟨rfl, by simp, by decide, by decide, by decide, by decide⟩

/-- SequencingByPhase: the phases of its first half's clauses; a command that does not fault. -/
theorem witness_sequencing :
    (State.reset.phase ≠ .fault ∧ State.reset.phase ≠ .config ∧ State.reset.phase ≠ .lutDef
        ∧ State.reset.phase ≠ .hdrOk ∧ State.reset.phase ≠ .classified)
      ∧ ((withEntry .screen5 ⟨1, 1⟩).phase ≠ .fault ∧ (withEntry .screen5 ⟨1, 1⟩).lutCount ≠ 0)
      ∧ exec .lutDef (configured .screen0) = .next ((configured .screen0).loadTable [⟨0xFFFFFF, 1⟩])
      ∧ ((configured .screen0).loadTable [⟨0xFFFFFF, 1⟩]).phase ≠ .fault :=
  ⟨by decide, by decide, rfl, by decide⟩

/-- NopLeavesStateUnchanged: a NOP word while an operand is awaited. -/
theorem witness_nop_operand :
    (writing [0x00000005] (awaiting State.reset)).requests = .write 0 (Instr.firstWord (.nop 5)) :: []
      ∧ (writing [0x00000005] (awaiting State.reset)).awaitOperand = true := ⟨rfl, rfl⟩

/-- CfgStartsRun: a malformed CFG word by its reserved bit and one by its mode, in phase FAULT and out of it. -/
theorem witness_cfg_malformed :
    (writing [0x10000020] State.reset).requests = .write 0 0x10000020 :: []
      ∧ (writing [0x10000020] State.reset).awaitOperand = false ∧ (0x10000020 : Word).toNat / 2 ^ 28 = 1
      ∧ (0x10000020 : Word).toNat % 2 ^ 28 / 2 ^ 5 ≠ 0 ∧ 8 ≤ (0x10000008 : Word).toNat % 2 ^ 4
      ∧ (writing [0x10000008] faulted).phase = .fault ∧ (writing [0x10000020] State.reset).phase ≠ .fault := by
  decide

/-- IllegalWordRaises. -/
theorem witness_illegal_word : (configured .screen5).phase ≠ .fault := by decide

/-- LutWrAppendsEntry, its five clauses in order: phase IDLE; LEN 2; index 16; a full LUT; the last free entry. -/
theorem witness_lut_wr :
    (State.reset.phase ≠ .config ∧ State.reset.phase ≠ .fault)
      ∧ ((configured .screen5).phase = .config ∧ (2 : BitVec 4) ≠ 3)
      ∧ (configured .screen5).mode.legal (16#32).toInt = false
      ∧ ((configured .screen5).mode.legal (15#32).toInt = true
        ∧ (under { Config.resetParams with lutDepth := 1 } (withEntry .screen5 ⟨1, 1⟩)).phase = .config
        ∧ (under { Config.resetParams with lutDepth := 1 } (withEntry .screen5 ⟨1, 1⟩)).lutCount = 1)
      ∧ ((under { Config.resetParams with lutDepth := 2 } (withEntry .screen5 ⟨1, 1⟩)).lutCount.toNat < 2
        ∧ (under { Config.resetParams with lutDepth := 2 } (withEntry .screen5 ⟨1, 1⟩)).mem.wf = true) := by
  decide +kernel

/-- LutDefLoadsTable: phase IDLE; allowed tables; a table longer than the LUT. -/
theorem witness_lut_def :
    (State.reset.phase ≠ .fault ∧ State.reset.phase ≠ .config)
      ∧ ((configured .screen0).phase = .config ∧ (configured .screen0).lutCount = 0
        ∧ (configured .screen0).params.tablesOk = true ∧ (configured .screen0).mem.wf = true)
      ∧ (under { Config.resetParams with lutDepth := 0 } (configured .screen0)).params.tablesOk = false := by
  decide +kernel

/-- The operand words of LutWrAppendsEntry, LutDefLoadsTable, FileWrAppendsByte and HdrTakesHeader, well-formed or not. -/
theorem witness_operand_words :
    (0x2FFFFFFF : Word) &&& 0xF0000000 = 0x20000000 ∧ (0x30000001 : Word) &&& 0xF0000000 = 0x30000000
      ∧ (0x400000FF : Word) &&& 0xF0000000 = 0x40000000 ∧ (0x50000000 : Word) &&& 0xF0000000 = 0x50000000 := by decide

/-- FileWrAppendsByte: phase IDLE; a full FILE; the last free byte, in phase LUTDEF. -/
theorem witness_file_wr :
    (State.reset.phase ≠ .config ∧ State.reset.phase ≠ .lutDef ∧ State.reset.phase ≠ .fault)
      ∧ ((under { Config.resetParams with fileMax := 1 } (withFile .screen5 [7])).phase = .config
        ∧ (under { Config.resetParams with fileMax := 1 } (withFile .screen5 [7])).fileLen = 1)
      ∧ (let s := { under { Config.resetParams with fileMax := 2 } (withFile .screen5 [7]) with phase := .lutDef };
        s.phase = .lutDef ∧ s.fileLen.toNat < s.params.fileMax.toNat ∧ s.mem.wf = true) := by
  decide +kernel

/-- The header HDR reads in `s`, as HdrTakesHeader writes it. -/
def headerOf (s : State) : State := s.withHeader (s.headerValue 10) (s.headerValue 18) (s.headerValue 22)

/-- HdrTakesHeader, its five clauses in order: phase IDLE; 25 bytes; an 8x8 image in SCREEN0; more pixels than IDX holds by
one; as many as it holds. -/
theorem witness_hdr :
    (State.reset.phase ≠ .config ∧ State.reset.phase ≠ .lutDef ∧ State.reset.phase ≠ .fault)
      ∧ ((withFile .screen5 (List.replicate 25 0)).phase = .config
        ∧ (withFile .screen5 (List.replicate 25 0)).fileLen.toNat < 26)
      ∧ (let s := withFile .screen0 (header 26 8 8);
        26 ≤ s.fileLen.toNat ∧ s.fileLen.toNat ≤ s.params.fileMax.toNat
          ∧ dimsOk s.mode (headerOf s).width.toNat (headerOf s).height.toInt = false)
      ∧ (let s := under { Config.resetParams with idxMax := 5 } (withFile .screen5 (header 26 2 3));
        26 ≤ s.fileLen.toNat ∧ s.fileLen.toNat ≤ s.params.fileMax.toNat
          ∧ dimsOk s.mode (headerOf s).width.toNat (headerOf s).height.toInt = true
          ∧ s.params.idxMax.toNat < (headerOf s).width.toNat * (headerOf s).height.toInt.natAbs)
      ∧ (let s := under { Config.resetParams with idxMax := 6 } (withFile .screen5 (header 26 2 3));
        26 ≤ s.fileLen.toNat ∧ s.fileLen.toNat ≤ s.params.fileMax.toNat
          ∧ dimsOk s.mode (headerOf s).width.toNat (headerOf s).height.toInt = true
          ∧ (headerOf s).width.toNat * (headerOf s).height.toInt.natAbs ≤ s.params.idxMax.toNat) := by
  decide +kernel

/-- RowPaddingAndStride and RowOrientation: a width of each residue (the source's 5, 4 and 6 among them), both signs, the
first and the last row. -/
theorem witness_rows :
    ((4 : Nat) % 4 = 0 ∧ (5 : Nat) % 4 = 1 ∧ (6 : Nat) % 4 = 2 ∧ (7 : Nat) % 4 = 3)
      ∧ (0 : Int) < 8 ∧ (-8 : Int) < 0 ∧ 0 < (-8 : Int).natAbs ∧ 7 < (-8 : Int).natAbs := by decide

/-- LookupFirstMatch: L16's table, where the first of two entries wins; a colour it does not hold, in SCREEN0 and not. -/
theorem witness_lookup :
    (let s := readyToClassify .screen5 1 1 [] [⟨0xFFFFFF, 3⟩, ⟨0xFFFFFF, 5⟩];
      0 < s.lutCount.toNat ∧ (s.lutAt 0).rgb = 0xFFFFFF ∧ (∀ j < 0, (s.lutAt j).rgb ≠ 0xFFFFFF)
        ∧ (∀ k < s.lutCount.toNat, (s.lutAt k).rgb ≠ 0x123456) ∧ s.mode ≠ .screen0)
      ∧ (∀ k < (configured .screen0).lutCount.toNat, ((configured .screen0).lutAt k).rgb ≠ 0x123456)
      ∧ (configured .screen0).mode = .screen0 := by decide +kernel
theorem onePixel_spaces : ∀ raw ∈ [[0, 0, 0xFF], [0, 0]], ∀ rgb ∈ [0xFF0000#24, 0x00FF00#24],
    (onePixel raw rgb).SpacesOk := by
  intro raw hr rgb hg
  simp only [List.mem_cons, List.not_mem_nil, or_false] at hr hg
  rcases hr with rfl | rfl <;> rcases hg with rfl | rfl <;> constructor <;> decide +kernel

/-- ClassifyBuildsIndices. -/
theorem witness_classify :
    let s := onePixel [0, 0, 0xFF] 0xFF0000
    s.phase = .hdrOk ∧ s.SpacesOk ∧ s.MemoryOk ∧ s.pixelCount ≤ s.params.idxMax.toNat
      ∧ (∀ i < s.pixelCount, s.PixelPresent i ∧ s.PixelMapped i) := by
  refine ⟨rfl, onePixel_spaces _ (by simp) _ (by simp), by unfold State.MemoryOk; decide +kernel, by decide +kernel,
    fun i hi => ?_⟩
  have h1 : (onePixel [0, 0, 0xFF] 0xFF0000).pixelCount = 1 := by decide +kernel
  obtain rfl : i = 0 := by omega
  exact ⟨by unfold State.PixelPresent; decide +kernel, Or.inl ⟨0, by decide, by decide +kernel⟩⟩

/-- ClassifyReportsLowestPixel: the one pixel lacks a byte; its colour is not in the table. -/
theorem witness_classify_faults :
    (let s := onePixel [0, 0] 0xFF0000;
      s.phase = .hdrOk ∧ s.SpacesOk ∧ s.pixelCount ≤ s.params.idxMax.toNat ∧ 0 < s.pixelCount
        ∧ (∀ j < 0, s.PixelPresent j ∧ s.PixelMapped j) ∧ ¬ s.PixelPresent 0)
      ∧ (let s := onePixel [0, 0, 0xFF] 0x00FF00;
        s.phase = .hdrOk ∧ s.SpacesOk ∧ s.pixelCount ≤ s.params.idxMax.toNat ∧ 0 < s.pixelCount
          ∧ (∀ j < 0, s.PixelPresent j ∧ s.PixelMapped j) ∧ s.PixelPresent 0 ∧ ¬ s.PixelMapped 0) := by
  refine ⟨⟨rfl, onePixel_spaces _ (by simp) _ (by simp), by decide +kernel, by decide +kernel, by simp,
    by unfold State.PixelPresent; decide +kernel⟩, rfl, onePixel_spaces _ (by simp) _ (by simp), by decide +kernel,
    by decide +kernel, by simp, by unfold State.PixelPresent; decide +kernel, ?_⟩
  rintro (⟨k, hk, h⟩ | h)
  · obtain rfl : k = 0 := by simpa [onePixel, readyToClassify] using hk
    revert h
    decide +kernel
  · cases h

/-- EncodeTile1: both modes, the first and the last pixel set. -/
theorem witness_tile1 :
    (let s := classified .screen0 6 8 [(0, 1), (47, 1)];
      s.EncodeReady .asm .screen0 ∧ (∀ i < s.pixelCount, s.idxAt i = 0 ∨ s.idxAt i = 1) ∧ 9 ≤ s.params.outMax.toNat)
      ∧ (let s := under { Config.resetParams with outMax := 9 } (classified .screen1 8 8 [(0, 1), (63, 1)]);
        s.EncodeReady .asm .screen1 ∧ (∀ i < s.pixelCount, s.idxAt i = 0 ∨ s.idxAt i = 1)
          ∧ 9 ≤ s.params.outMax.toNat) :=
  ⟨⟨⟨rfl, rfl, rfl, by decide, by decide, rfl⟩, by decide +kernel, by decide⟩,
    ⟨rfl, rfl, rfl, by decide, by decide, rfl⟩, by decide +kernel, by decide⟩

/-- EncodeTile2: rows with one and with two indices, OUT just large enough. -/
theorem witness_tile2 :
    let s := under { Config.resetParams with outMax := 18 } (classified .tile2lc 8 8 [(1, 5), (63, 5)])
    s.EncodeReady .asm .tile2lc ∧ (∀ r < 8, s.TwoColorRow r) ∧ 18 ≤ s.params.outMax.toNat := by
  refine ⟨⟨rfl, rfl, rfl, by decide, by decide, rfl⟩, fun r hr => ⟨0, 5, ?_⟩, by decide⟩
  have h : ∀ r < 8, ∀ c < 8,
      (classified .tile2lc 8 8 [(1, 5), (63, 5)]).pixel r c = 0
        ∨ (classified .tile2lc 8 8 [(1, 5), (63, 5)]).pixel r c = 5 := by decide +kernel
  exact h r hr

/-- Tile2ThirdColorFaults: row 1 is 1, 2, 0, ... -/
theorem witness_third_color :
    let s := classified .tile2lc 8 8 [(8, 1), (9, 2)]
    s.EncodeReady .asm .tile2lc ∧ (∀ r' < 1, s.TwoColorRow r')
      ∧ ∃ a b, a ≠ b ∧ (∀ c' < 2, s.pixel 1 c' = a ∨ s.pixel 1 c' = b) ∧ (∃ c' < 2, s.pixel 1 c' = a)
        ∧ (∃ c' < 2, s.pixel 1 c' = b) ∧ s.pixel 1 2 ≠ a ∧ s.pixel 1 2 ≠ b := by
  refine ⟨⟨rfl, rfl, rfl, by decide, by decide, rfl⟩, fun r hr => ⟨0, 0, ?_⟩, 1, 2, by decide, by decide +kernel,
    ⟨0, by decide, by decide +kernel⟩, ⟨1, by decide, by decide +kernel⟩, by decide +kernel, by decide +kernel⟩
  obtain rfl : r = 0 := by omega
  decide +kernel

/-- Tile2RoundTrip: a row of two indices (W3's row 4). -/
theorem witness_tile2_round_trip :
    ∃ a b : Nibble, ∀ c < 8, (if 0 * 8 + c = 0 then (2 : Nibble) else 1) = a
      ∨ (if 0 * 8 + c = 0 then (2 : Nibble) else 1) = b := ⟨2, 1, by decide⟩

/-- EncodePlane. -/
theorem witness_plane :
    let s := under { Config.resetParams with outMax := 3 } (classified .screen3 8 8 [(0, 15), (36, 10)])
    s.EncodeReady .asm .screen3 ∧ 3 ≤ s.params.outMax.toNat :=
  ⟨⟨rfl, rfl, rfl, by decide, by decide, rfl⟩, by decide⟩

/-- EncodeRaw4: an odd width, OUT just large enough. -/
theorem witness_raw4 :
    let s := under { Config.resetParams with outMax := 7 } (classified .screen5 3 2 [(0, 1), (5, 6)])
    s.EncodeReady .asm .screen5 ∧ 1 + s.imageH * ((s.imageW + 1) / 2 + 1) ≤ s.params.outMax.toNat :=
  ⟨⟨rfl, rfl, rfl, by decide, by decide, rfl⟩, by decide⟩

/-- EncodeRaw2: a width that is no multiple of 4, OUT just large enough. -/
theorem witness_raw2 :
    let s := under { Config.resetParams with outMax := 7 } (classified .screen6 5 2 [(0, 1), (9, 3)])
    s.EncodeReady .asm .screen6 ∧ (∀ i < s.pixelCount, (s.idxAt i).toNat ≤ 3)
      ∧ 1 + s.imageH * ((s.imageW + 3) / 4 + 1) ≤ s.params.outMax.toNat :=
  ⟨⟨rfl, rfl, rfl, by decide, by decide, rfl⟩, by decide +kernel, by decide⟩

/-- EncodeSpriteSingle: a 16x16 sprite of colour 9 with its last pixel set, and an empty 8x8 one. -/
theorem witness_sprite :
    (let s := classified .sprite1 16 16 [(255, 9)];
      s.EncodeReady .asm .sprite1 ∧ 3 + s.blockRowCount ≤ s.params.outMax.toNat
        ∧ s.OneColorBefore 0 (8 * s.blockRowCount) 9)
      ∧ (let s := classified .sprite1 8 8 [];
        s.EncodeReady .asm .sprite1 ∧ 3 + s.blockRowCount ≤ s.params.outMax.toNat
          ∧ ∀ p < 8 * s.blockRowCount, s.visited p = 0) := by
  refine ⟨⟨⟨rfl, rfl, rfl, by decide, by decide, rfl⟩, by decide, by decide, fun q _ hq => ?_, 255, by decide, by decide,
    by decide +kernel⟩, ⟨rfl, rfl, rfl, by decide, by decide, rfl⟩, by decide, by decide +kernel⟩
  have h : ∀ q < 256, (classified .sprite1 16 16 [(255, 9)]).visited q = 0
      ∨ (classified .sprite1 16 16 [(255, 9)]).visited q = 9 := by decide +kernel
  exact h q hq

/-- SpriteSecondColorFaults: S6, the last pixel of an 8x8 sprite. -/
theorem witness_second_color :
    let s := classified .sprite1 8 8 [(0, 1), (63, 2)]
    s.EncodeReady .asm .sprite1 ∧ 63 < 8 * s.blockRowCount ∧ s.OneColorBefore 0 63 1 ∧ s.visited 63 ≠ 0
      ∧ s.visited 63 ≠ 1 := by
  refine ⟨⟨rfl, rfl, rfl, by decide, by decide, rfl⟩, by decide, ⟨by decide, fun q _ hq => ?_, 0, by decide, by decide,
    by decide +kernel⟩, by decide +kernel, by decide +kernel⟩
  have h : ∀ q < 63, (classified .sprite1 8 8 [(0, 1), (63, 2)]).visited q = 0
      ∨ (classified .sprite1 8 8 [(0, 1), (63, 2)]).visited q = 1 := by decide +kernel
  exact h q hq

/-- EncodeSpriteLine: the first row has colour 1, the others none; OUT just large enough. -/
theorem witness_line :
    let s := under { Config.resetParams with outMax := 18 } (classified .spritelc 8 8 [(7, 1)])
    s.EncodeReady .asm .spritelc ∧ s.imageW = 8 ∧ 18 ≤ s.params.outMax.toNat
      ∧ ([1, 0, 0, 0, 0, 0, 0, 0] : List Nibble).length = 8
      ∧ ∀ q < 8, s.IsLineColor q (([1, 0, 0, 0, 0, 0, 0, 0] : List Nibble).getD q 0) := by
  refine ⟨⟨rfl, rfl, rfl, by decide, by decide, rfl⟩, rfl, by decide, rfl, fun q hq => ?_⟩
  have h : ∀ q < 8,
      (∀ k < 8, (classified .spritelc 8 8 [(7, 1)]).visited (8 * q + k) = 0
        ∨ (classified .spritelc 8 8 [(7, 1)]).visited (8 * q + k)
          = ([1, 0, 0, 0, 0, 0, 0, 0] : List Nibble).getD q 0)
      ∧ (([1, 0, 0, 0, 0, 0, 0, 0] : List Nibble).getD q 0 ≠ 0 → ∃ k < 8,
        (classified .spritelc 8 8 [(7, 1)]).visited (8 * q + k)
          = ([1, 0, 0, 0, 0, 0, 0, 0] : List Nibble).getD q 0) := by decide +kernel
  exact h q hq

/-- LineSecondColorFaults: S8's row 2; the rows before it are empty. -/
theorem witness_line_fault :
    let s := classified .spritelc 8 8 [(16, 9), (18, 3)]
    s.EncodeReady .asm .spritelc ∧ 2 < s.blockRowCount ∧ (∀ q' < 2, ∃ c', s.IsLineColor q' c')
      ∧ s.OneColorBefore (8 * 2) (8 * 2 + 2) 9 ∧ s.visited (8 * 2 + 2) ≠ 0 ∧ s.visited (8 * 2 + 2) ≠ 9 := by
  refine ⟨⟨rfl, rfl, rfl, by decide, by decide, rfl⟩, by decide, fun q hq => ⟨0, ?_, by simp⟩,
    ⟨by decide, fun q h1 h2 => ?_, 16, by decide, by decide, by decide +kernel⟩, by decide +kernel, by decide +kernel⟩
  · have h : ∀ q < 2, ∀ k < 8, (classified .spritelc 8 8 [(16, 9), (18, 3)]).visited (8 * q + k) = 0
        ∨ (classified .spritelc 8 8 [(16, 9), (18, 3)]).visited (8 * q + k) = 0 := by decide +kernel
    exact h q hq
  · have h : ∀ q < 18, 16 ≤ q → (classified .spritelc 8 8 [(16, 9), (18, 3)]).visited q = 0
        ∨ (classified .spritelc 8 8 [(16, 9), (18, 3)]).visited q = 9 := by decide +kernel
    exact h q h2 h1

/-- The line colours of a 16x16 sprite whose first pixel alone is set. -/
def lineColors : List Nibble := 1 :: List.replicate 31 0

/-- LineSpritePost's common hypotheses hold whatever the replacement. -/
theorem witness_line_post_rows (post : Option (List (List Nibble × List Byte))) :
    let s := under { Config.resetParams with spritePost := post } (classified .spritelc 16 16 [(0, 1)])
    s.EncodeReady .asm .spritelc ∧ s.imageW = 16 ∧ lineColors.length = 32
      ∧ ∀ q < 32, s.IsLineColor q (lineColors.getD q 0) := by
  refine ⟨⟨rfl, rfl, rfl, rfl, (by decide : 256 ≤ 1024), rfl⟩, rfl, rfl, fun q hq => ?_⟩
  have h : ∀ q < 32,
      (∀ k < 8, (classified .spritelc 16 16 [(0, 1)]).visited (8 * q + k) = 0
        ∨ (classified .spritelc 16 16 [(0, 1)]).visited (8 * q + k) = lineColors.getD q 0)
      ∧ (lineColors.getD q 0 ≠ 0 → ∃ k < 8,
        (classified .spritelc 16 16 [(0, 1)]).visited (8 * q + k) = lineColors.getD q 0) := by decide +kernel
  exact h q hq

/-- LineSpritePost's cases: the default is reset's; a replacement that refuses; one that answers three bytes. -/
theorem witness_line_post :
    Config.resetParams.spritePost = none
      ∧ (∀ p ∈ ([] : List (List Nibble × List Byte)), p.1 ≠ lineColors)
      ∧ ([(lineColors, [1, 2, 3])] : List (List Nibble × List Byte)) = [] ++ (lineColors, [1, 2, 3]) :: []
      ∧ 34 + ([1, 2, 3] : List Byte).length ≤ Config.resetParams.outMax.toNat := by
  refine ⟨rfl, by simp, rfl, by decide⟩

/-- EncodeSif: W = 2, the least width, OUT just large enough. -/
theorem witness_sif :
    let s := under { Config.resetParams with outMax := 10 } (classified .screen5 2 3 [(0, 1), (5, 6)] .sif)
    s.EncodeReady .sif .screen5 ∧ 2 ≤ s.imageW ∧ s.imageW + s.imageW % 2 ≤ 0xFFFF ∧ s.imageH ≤ 0xFFFF
      ∧ 7 + s.imageH * ((s.imageW + 1) / 2) ≤ s.params.outMax.toNat :=
  ⟨⟨rfl, rfl, rfl, by decide, by decide, rfl⟩, by decide, by decide, by decide, by decide⟩

/-- EncodeSifOneColumn: two rows, OUT just large enough, and one row. -/
theorem witness_sif_one_column :
    (let s := under { Config.resetParams with outMax := 8 } (classified .screen5 1 2 [(0, 1), (1, 2)] .sif);
      s.EncodeReady .sif .screen5 ∧ s.imageW = 1 ∧ s.imageH ≤ 0xFFFF ∧ 2 ≤ s.imageH
        ∧ 6 + s.imageH ≤ s.params.outMax.toNat)
      ∧ (let s := classified .screen5 1 1 [(0, 1)] .sif;
        s.EncodeReady .sif .screen5 ∧ s.imageW = 1 ∧ s.imageH ≤ 0xFFFF ∧ s.imageH = 1) :=
  ⟨⟨⟨rfl, rfl, rfl, by decide, by decide, rfl⟩, by decide, by decide, by decide, by decide⟩,
    ⟨rfl, rfl, rfl, by decide, by decide, rfl⟩, by decide, by decide, by decide⟩

/-- SifHeaderTooLarge: the least width and the least height that do not fit. -/
theorem witness_sif_too_large :
    (let s := under { Config.resetParams with idxMax := 0xFFFF } (classified .screen5 0xFFFF 1 [] .sif);
      s.EncodeReady .sif .screen5 ∧ 0xFFFF < s.imageW + s.imageW % 2)
      ∧ (let s := under { Config.resetParams with idxMax := 0x10000 } (classified .screen6 1 0xFFFF0000 [] .sif);
        s.EncodeReady .sif .screen6 ∧ 0xFFFF < s.imageH) :=
  ⟨⟨⟨rfl, rfl, rfl, by decide +kernel, by decide +kernel, rfl⟩, by decide +kernel⟩,
    ⟨rfl, rfl, rfl, by decide +kernel, by decide +kernel, rfl⟩, by decide +kernel⟩

/-- EncodeOutputTooLong: an output of 9 tokens and room for 8. -/
theorem witness_output_too_long :
    let s := under { Config.resetParams with outMax := 8 } (classified .screen1 8 8 [])
    s.EncodeReady .asm .screen1 ∧ s.encoded = .ok ⟨tile1 s.idxAt 8 8, false⟩
      ∧ s.params.outMax.toNat < (tile1 s.idxAt 8 8).length :=
  ⟨⟨rfl, rfl, rfl, by decide, by decide, rfl⟩, rfl, by decide +kernel⟩

/-- The invariants and StepNeverStops: reset with a CFG waiting, and a step that answers. -/
theorem witness_invariant :
    let s := writing [0x10000002] State.reset
    s.Inv ∧ s.params.tablesOk = true ∧ step s = .next (configured .tile2lc) := by
  refine ⟨⟨rfl, ?_, ?_, ?_, ?_, fun h => by cases h⟩, by decide, rfl⟩ <;> constructor <;> decide

/-- StepKeepsMemoryForm and StepKeepsIndexLegality where the step stores an entry. -/
theorem witness_storing_step :
    let s := (configured .screen0).withFetchWord 64 0x0000000123FFFFFF
    s.MemoryOk ∧ s.IndexOk ∧ step s = .next (withEntry .screen0 ⟨0xFFFFFF, 1⟩ |>.latch 0x23FFFFFF |>.unlatch) := by
  refine ⟨rfl, by constructor <;> decide, rfl⟩

/-- RegistersWrittenOnlyByTheirCommands and MemoriesWrittenOnlyByTheirCommands: a command that no clause excepts. -/
theorem witness_frames :
    exec (.nop 0) State.reset = .next State.reset ∧ (∀ fmt mode, Instr.nop 0 ≠ .cfg fmt mode)
      ∧ (∀ len rgb w1, Instr.nop 0 ≠ .lutWr len rgb w1) ∧ (∀ b, Instr.nop 0 ≠ .fileWr b) := by
  refine ⟨rfl, ?_, ?_, ?_⟩ <;> simp

/-- FaultingCommandFrame. -/
theorem witness_faulting :
    exec .hdr State.reset = .next (State.reset.raise { code := .sequenceError, a := 0x50000000 })
      ∧ State.reset.phase ≠ .fault
      ∧ (State.reset.raise { code := .sequenceError, a := 0x50000000 }).phase = .fault := ⟨rfl, by decide, rfl⟩

/-- OnlyCfgOrResetLeavesFault: a CFG leaves phase FAULT. -/
theorem witness_leaves_fault :
    (writing [0x10000003] faulted).phase = .fault
      ∧ step (writing [0x10000003] faulted) = .next (faulted.newRun .asm .screen3)
      ∧ (faulted.newRun .asm .screen3).phase ≠ .fault := ⟨rfl, rfl, by decide⟩

/-- OutValidOnlyByEncode: an ENCODE that sets OUT_VALID. -/
theorem witness_out_valid :
    let s := classified .screen3 8 8 []
    exec .encode s = .next (s.storeOutput [.sect .main, .data 0, .data 0]) ∧ s.outValid = false
      ∧ (s.storeOutput [.sect .main, .data 0, .data 0]).outValid = true := ⟨rfl, rfl, rfl⟩

end Sys2Proof.Tests
end

section
/-! PROOFS. The scope's statements: a whole command runs as its meaning (O6), LUT_DEF (O23), and two parts of the invariant that every step keeps, the spaces (O50) and the stored indices' legality (O53). -/

namespace Sys2Proof

/-! ### Words by their top four bits -/

/-- R59's mask of the OPC field keeps it. -/
theorem opcodeOf_and_mask (w : Word) : opcodeOf (w &&& 0xF0000000) = opcodeOf w := by
  rw [opcodeOf, BitVec.extractLsb'_and]
  exact BitVec.and_allOnes

/-- A word is its OPC field before its low 28 bits (R55). -/
theorem opcodeOf_append_low (w : Word) : (opcodeOf w ++ w.extractLsb' 0 28 : BitVec (4 + 28)) = w := by
  apply BitVec.eq_of_toNat_eq
  have h := w.isLt
  rw [toNat_joined, toNat_opcodeOf, BitVec.extractLsb'_toNat, Nat.shiftRight_zero]
  omega

/-- A word with OPC 3 is LUT_DEF's, or illegal where a lower bit is set (R59, R61). -/
theorem decode_opcode_three {w : Word} (h : opcodeOf w = 3) :
    decode [w] = .ok (if w = 0x30000000 then .lutDef else .illegal w, []) := by
  have hlow : w.extractLsb' 0 28 = 0 ↔ w = 0x30000000 := by
    constructor
    · intro h0
      rw [← opcodeOf_append_low w, h, h0]
      rfl
    · rintro rfl
      rfl
  have hcmd : decode [w] = .ok (if w.extractLsb' 0 28 ≠ 0 then .illegal w else .lutDef, []) := by
    simp [decode, decodeCommand, h]
  simp only [hcmd, ne_eq, hlow, ite_not]

/-! ### Default tables (R7, R9, R10) -/

/-- A lookup finds an index exactly where the first entry with the colour has it (R77). -/
theorem lookupIn_eq_some_iff {tb : List LutEntry} {rgb : Rgb} {v : Nibble} :
    lookupIn tb rgb = some v ↔
      ∃ pre e post, tb = pre ++ e :: post ∧ (∀ x ∈ pre, x.rgb ≠ rgb) ∧ e.rgb = rgb ∧ e.idx = v := by
  induction tb with
  | nil => simp [lookupIn]
  | cons a tb ih =>
    by_cases ha : a.rgb = rgb
    · simp only [lookupIn, ha, if_true, Option.some.injEq]
      constructor
      · exact fun hv => ⟨[], a, tb, rfl, by simp, ha, hv⟩
      · rintro ⟨_ | ⟨b, pre⟩, e, post, heq, hpre, _, hv⟩ <;> obtain ⟨rfl, rfl⟩ := List.cons.inj heq
        · exact hv
        · exact absurd ha (hpre _ List.mem_cons_self)
    · simp only [lookupIn, ha, if_false, ih]
      constructor
      · rintro ⟨pre, e, post, rfl, hpre, he⟩
        exact ⟨a :: pre, e, post, rfl, by simpa [ha] using hpre, he⟩
      · rintro ⟨_ | ⟨b, pre⟩, e, post, heq, hpre, he, hv⟩ <;> obtain ⟨rfl, rfl⟩ := List.cons.inj heq
        · exact absurd he ha
        · exact ⟨pre, e, post, rfl, fun x hx => hpre x (List.mem_cons_of_mem _ hx), he, hv⟩

theorem mem_allModes (m : Mode) : m ∈ allModes := by cases m <;> decide

/-- The allowed tables, constraint by constraint (R7, R10). -/
theorem Params.tablesOk_iff {p : Params} :
    p.tablesOk = true ↔
      (∀ k : Fin 6, p.defaultTables[k].length ≤ p.lutDepth.toNat)
        ∧ (∀ m, ∀ e ∈ p.defaultTable m, m.legalIdx e.idx = true)
        ∧ lookupIn (p.defaultTable .screen0) 0xFFFFFF = some 1 := by
  have hfit : (∀ t ∈ p.defaultTables.toList, t.length ≤ p.lutDepth.toNat) ↔
      ∀ k : Fin 6, p.defaultTables[k].length ≤ p.lutDepth.toNat := by
    simp only [Vector.mem_toList_iff, Vector.mem_iff_getElem]
    exact ⟨fun h k => h _ ⟨k, k.isLt, rfl⟩, fun h t ⟨k, hk, ht⟩ => ht ▸ h ⟨k, hk⟩⟩
  simp only [Params.tablesOk, Bool.and_eq_true, List.all_eq_true, decide_eq_true_eq, hfit, mem_allModes, true_imp_iff,
    and_assoc]

end Sys2Proof

namespace Sys2Proof.Machine

/-! ### What the memories read as after the writes of LUT_WR, LUT_DEF and CLASSIFY -/

theorem State.MemoryOk.lut {s : State} (h : s.MemoryOk) : Store.wf Config.unlistedEntry s.mem.lut = true :=
  (Memory.wf_iff.mp h).2.2.2

theorem State.MemoryOk.idx {s : State} (h : s.MemoryOk) : Store.wf Config.unlistedIndex s.mem.idx = true :=
  (Memory.wf_iff.mp h).2.1

theorem State.appendLut_lutAt_same {s : State} {e : LutEntry} (h : s.MemoryOk) :
    (s.appendLut e).lutAt s.lutCount.toNat = e :=
  Store.read_write_same h.lut

theorem State.appendLut_lutAt_other {s : State} {e : LutEntry} {k : Nat} (hk : k ≠ s.lutCount.toNat) :
    (s.appendLut e).lutAt k = s.lutAt k :=
  Store.read_write_other hk

theorem State.loadTable_lutAt_inside {s : State} {tb : List LutEntry} {k : Nat} (h : s.MemoryOk)
    (hk : k < tb.length) : (s.loadTable tb).lutAt k = tb[k] := by
  rw [← Store.read_writeFrom_inside (a := 0) hk h.lut, Nat.zero_add]
  rfl

theorem State.loadTable_lutAt_outside {s : State} {tb : List LutEntry} {k : Nat} (hk : tb.length ≤ k) :
    (s.loadTable tb).lutAt k = s.lutAt k :=
  Store.read_writeFrom_outside (Or.inr (by simpa using hk))

theorem State.storeIndices_idxAt_inside {s : State} {px : List Nibble} {i : Nat} (h : s.MemoryOk)
    (hi : i < px.length) : (s.storeIndices px).idxAt i = px[i] := by
  rw [← Store.read_writeFrom_inside (a := 0) hi h.idx, Nat.zero_add]
  rfl

/-! ### Sequencing and delivery -/

/-- A command its phase accepts has its own effect (R105). -/
theorem sequenced_accepted {i : Instr} {s : State} {k : Result} (hf : s.phase ≠ .fault) (ha : accepts i s = true) :
    sequenced i s k = k := by
  rw [sequenced, if_neg hf, if_pos ha]

/-- A command its phase does not accept raises SequenceError (R105). -/
theorem sequenced_rejected {i : Instr} {s : State} {k : Result} (hf : s.phase ≠ .fault) (ha : accepts i s = false) :
    sequenced i s k = .next (s.raise ⟨.sequenceError, i.firstWord, s.phaseWord, 0, 0⟩) := by
  rw [sequenced, if_neg hf, if_neg (by simp [ha])]

theorem accepts_lutDef_iff {s : State} : accepts .lutDef s = true ↔ s.phase = .config ∧ s.lutCount = 0 := by
  simp [accepts]

/-- LUT_DEF where its phase accepts it: the default table is loaded, or the tables refused (R70, R10). -/
theorem exec_lutDef_accepted {s : State} (hp : s.phase = .config) (hc : s.lutCount = 0) :
    exec .lutDef s = loadDefault s :=
  sequenced_accepted (by simp [hp]) (accepts_lutDef_iff.mpr ⟨hp, hc⟩)

/-- A word that is a whole command is run when no operand is awaited (R47, R56). -/
theorem deliver_command {s : State} {w : Word} {i : Instr} {rest : List Word} (hw : s.awaitOperand = false)
    (hd : decode [w] = .ok (i, rest)) : deliver w s = exec i s := by
  simp [deliver, hw, hd]

/-- Settles O6: a CMD write is delivered, and a whole command delivered with no operand awaited is run. -/
theorem stepRunsDecodedCommand : Obligations.StepRunsDecodedCommand := by
  intro s w rest i hr hw hd
  rw [step_cmd hr]
  exact deliver_command hw hd

/-- Settles O23, clause by clause: sequencing, the load, the refusal, which tables are allowed, and the word. -/
theorem lutDefLoadsTable : Obligations.LutDefLoadsTable := by
  intro s
  refine ⟨?_, ?_, ?_, ?_, ?_, ?_⟩
  · intro hf hrej
    refine sequenced_rejected hf (Bool.eq_false_iff.mpr fun ha => ?_)
    obtain ⟨hp, hc⟩ := accepts_lutDef_iff.mp ha
    exact hrej.elim (· hp) (· hc)
  · intro hp hc hok hm
    have hlen := Params.defaultTable_length hok s.mode
    have htable : (s.loadTable (s.params.defaultTable s.mode)).table = s.params.defaultTable s.mode :=
      State.loadTable_table hm (hlen.trans_lt s.params.lutDepth.isLt)
    refine ⟨s.loadTable (s.params.defaultTable s.mode), ?_, htable, ?_, rfl, ?_, ?_, rfl⟩
    · rw [exec_lutDef_accepted hp hc, loadDefault, if_pos hok]
    · rw [htable]
      exact toNat_ofNat_of_le hlen
    · rw [htable]
      exact Params.defaultTable_legal hok s.mode
    · rw [htable]
      exact fun k hk => State.loadTable_lutAt_outside hk
  · intro hp hc hok
    rw [exec_lutDef_accepted hp hc, loadDefault, if_neg (by simp [hok])]
  · intro m
    cases m <;> rfl
  · rw [Params.tablesOk_iff, lookupIn_eq_some_iff]
    rfl
  · intro w hw
    exact decode_opcode_three (by rw [← opcodeOf_and_mask, hw]; rfl)

/-! ### A step, apart from the host's side of the state -/

/-- `s` with the host's side of `u`: the accesses to come, the answers given, the selectors and the latch. -/
def State.withPort (s u : State) : State :=
  { s with
    requests := u.requests
    answers := u.answers
    lutSel := u.lutSel
    idxSel := u.idxSel
    outSel := u.outSel
    awaitOperand := u.awaitOperand
    pending := u.pending }

/-- A step changes the host's side of the state, and then nothing, or the block is reset, or a command runs. -/
theorem step_withPort {s t : State} (h : step s = .next t) :
    ∃ u : State, t = s.withPort u ∨ t = (s.withPort u).resetBlock ∨ ∃ i, Effect (s.withPort u) i t := by
  cases step_effect h with
  | idle => exact ⟨s, .inl rfl⟩
  | read off rest => exact ⟨{ s with requests := rest, answers := s.answers ++ [s.hostRead off] }, .inl rfl⟩
  | reset rest => exact ⟨{ s with requests := rest }, .inr (.inl rfl)⟩
  | write off v rest a b c =>
    exact ⟨{ s with requests := rest, outSel := a, idxSel := b, lutSel := c }, .inl rfl⟩
  | latch w rest => exact ⟨({ s with requests := rest } : State).latch w, .inl rfl⟩
  | operand w rest _ _ _ he => exact ⟨({ s with requests := rest } : State).unlatch, .inr (.inr ⟨_, he⟩)⟩
  | command w rest i _ _ _ _ he => exact ⟨{ s with requests := rest }, .inr (.inr ⟨i, he⟩)⟩

/-! ### The spaces (R7, R8, R32, R35, R39) -/

theorem State.SpacesOk.withPort {s : State} (h : s.SpacesOk) (u : State) : (s.withPort u).SpacesOk := { h with }

theorem State.SpacesOk.resetBlock (s : State) : s.resetBlock.SpacesOk := by
  constructor <;> simp [State.resetBlock, State.reset, Store.below]

theorem State.SpacesOk.newRun {s : State} (h : s.SpacesOk) (fmt : Format) (mode : Mode) :
    (s.newRun fmt mode).SpacesOk :=
  { h with lutCount := Nat.zero_le _, fileLen := Nat.zero_le _, idxLen := Nat.zero_le _, outLen := Nat.zero_le _ }

theorem State.SpacesOk.raise {s : State} (h : s.SpacesOk) (t : Trap) : (s.raise t).SpacesOk :=
  { h with outLen := Nat.zero_le _ }

theorem State.SpacesOk.readHeader {s : State} (h : s.SpacesOk) : s.readHeader.SpacesOk := { h with }

theorem State.SpacesOk.warnIf {s : State} (h : s.SpacesOk) (b : Bool) : (s.warnIf b).SpacesOk := { h with }

theorem State.SpacesOk.appendLut {s : State} (h : s.SpacesOk) (e : LutEntry)
    (hlt : s.lutCount.toNat < s.params.lutDepth.toNat) : (s.appendLut e).SpacesOk :=
  { h with
    lut := Store.write_below h.lut hlt
    lutCount := (toNat_succ_of_lt hlt).trans_le hlt }

theorem State.SpacesOk.loadTable {s : State} (h : s.SpacesOk) {tb : List LutEntry}
    (hle : tb.length ≤ s.params.lutDepth.toNat) : (s.loadTable tb).SpacesOk :=
  { h with
    lut := Store.writeFrom_below h.lut (by simpa using hle)
    lutCount := (toNat_ofNat_of_le hle).trans_le hle }

theorem State.SpacesOk.appendFile {s : State} (h : s.SpacesOk) (b : Byte)
    (hlt : s.fileLen.toNat < s.params.fileMax.toNat) : (s.appendFile b).SpacesOk :=
  { h with
    file := Store.write_below h.file hlt
    fileLen := (toNat_succ_of_lt hlt).trans_le hlt }

theorem State.SpacesOk.storeIndices {s : State} (h : s.SpacesOk) {px : List Nibble}
    (hle : px.length ≤ s.params.idxMax.toNat) : (s.storeIndices px).SpacesOk :=
  { h with
    idx := Store.writeFrom_below h.idx (by simpa using hle)
    idxLen := (toNat_ofNat_of_le hle).trans_le hle }

theorem State.SpacesOk.storeOutput {s : State} (h : s.SpacesOk) {ts : List Token}
    (hle : ts.length ≤ s.params.outMax.toNat) : (s.storeOutput ts).SpacesOk :=
  { h with
    out := Store.writeFrom_below h.out (by simpa using hle)
    outLen := (toNat_ofNat_of_le hle).trans_le hle }

/-- Every command keeps cells and lengths inside their spaces. -/
theorem Effect.spacesOk {s t : State} {i : Instr} (he : Effect s i t) (h : s.SpacesOk) : t.SpacesOk := by
  cases he with
  | nop => exact h
  | cfg fmt mode => exact h.newRun fmt mode
  | ignored => exact h
  | trap _ t => exact h.raise t
  | lutWr len rgb w1 _ _ hlt => exact h.appendLut _ hlt
  | lutDef _ _ hok => exact h.loadTable (Params.defaultTable_length hok s.mode)
  | fileWr b _ hlt => exact h.appendFile b hlt
  | hdr => exact { h with }
  | hdrTrap t => exact h.readHeader.raise t
  | classify px _ hle hpx => exact h.storeIndices ((State.classifyAll_length hpx).trans_le hle)
  | encode e _ _ hle => exact (h.warnIf e.warnEmpty).storeOutput hle
  | encodeTrap e t => exact (h.warnIf e.warnEmpty).raise t

/-- Settles O50: the host's side of the state is no part of the spaces, reset empties them, and every command keeps them. -/
theorem stepKeepsSpaces : Obligations.StepKeepsSpaces := by
  intro s t h hstep
  obtain ⟨u, rfl | rfl | ⟨i, he⟩⟩ := step_withPort hstep
  · exact h.withPort u
  · exact State.SpacesOk.resetBlock _
  · exact he.spacesOk (h.withPort u)

/-! ### The stored indices (R32, R42, R67, R78) -/

/-- Whatever keeps the mode, the two lengths and the two memories keeps the stored indices legal. -/
theorem State.IndexOk.of_eq {s t : State} (h : s.IndexOk) (hmode : t.mode = s.mode) (hcount : t.lutCount = s.lutCount)
    (hlen : t.idxLen = s.idxLen) (hlut : t.mem.lut = s.mem.lut) (hidx : t.mem.idx = s.mem.idx) : t.IndexOk := by
  constructor
  · simpa only [State.lutAt, hmode, hcount, hlut] using h.lut
  · simpa only [State.idxAt, hmode, hlen, hidx] using h.idx

theorem State.IndexOk.of_empty {s : State} (hcount : s.lutCount = 0) (hlen : s.idxLen = 0) : s.IndexOk := by
  constructor <;> simp [hcount, hlen]

theorem State.IndexOk.appendLut {s : State} (h : s.IndexOk) (hm : s.MemoryOk) {e : LutEntry}
    (he : s.mode.legalIdx e.idx = true) (hlt : s.lutCount.toNat < s.params.lutDepth.toNat) :
    (s.appendLut e).IndexOk := by
  refine { h with lut := fun k hk => ?_ }
  rw [State.appendLut_lutCount, toNat_succ_of_lt hlt] at hk
  by_cases hkn : k = s.lutCount.toNat
  · rw [hkn, State.appendLut_lutAt_same hm]
    exact he
  · rw [State.appendLut_lutAt_other hkn]
    exact h.lut k (by omega)

theorem State.IndexOk.loadTable {s : State} (h : s.IndexOk) (hm : s.MemoryOk) {tb : List LutEntry}
    (htb : ∀ e ∈ tb, s.mode.legalIdx e.idx = true) (hle : tb.length ≤ s.params.lutDepth.toNat) :
    (s.loadTable tb).IndexOk := by
  refine { h with lut := fun k hk => ?_ }
  rw [State.loadTable_lutCount, toNat_ofNat_of_le hle] at hk
  rw [State.loadTable_lutAt_inside hm hk]
  exact htb _ (List.getElem_mem hk)

/-- The index CLASSIFY finds for a pixel is some valid entry's, or SCREEN0's fallback (R77, R78). -/
theorem State.classifyPixel_index {s : State} {i : Nat} {v : Nibble} (h : s.classifyPixel i = .ok v) :
    (∃ k < s.lutCount.toNat, (s.lutAt k).idx = v) ∨ (s.mode = .screen0 ∧ v = 0) := by
  unfold State.classifyPixel at h
  split at h
  · cases h
  · unfold State.lookupPixel at h
    split at h
    · rename_i v' hfound
      cases h
      obtain ⟨e, he, _, hv⟩ := lookupIn_mem hfound
      obtain ⟨k, hk, rfl⟩ := List.mem_map.mp he
      exact .inl ⟨k, List.mem_range.mp hk, hv⟩
    · split at h
      · rename_i hmode
        cases h
        exact .inr ⟨hmode, rfl⟩
      · cases h

theorem State.classifyAll_get {s : State} {px : List Nibble} (h : s.classifyAll = .ok px) {i : Nat}
    (hi : i < px.length) : s.classifyPixel i = .ok px[i] := by
  have hn : i < (List.range s.pixelCount).length := by simpa [State.classifyAll_length h] using hi
  rw [← tryMap_get h i hn hi, List.getElem_range]

theorem State.IndexOk.storeIndices {s : State} (h : s.IndexOk) (hm : s.MemoryOk) {px : List Nibble}
    (hpx : s.classifyAll = .ok px) (hle : px.length ≤ s.params.idxMax.toNat) : (s.storeIndices px).IndexOk := by
  refine { h with idx := fun i hi => ?_ }
  rw [State.storeIndices_idxLen, toNat_ofNat_of_le hle] at hi
  rw [State.storeIndices_idxAt_inside hm hi]
  obtain ⟨k, hk, hv⟩ | hfallback := State.classifyPixel_index (State.classifyAll_get hpx hi)
  · exact .inl (hv ▸ h.lut k hk)
  · exact .inr hfallback

/-- Every command keeps the stored indices legal. -/
theorem Effect.indexOk {s t : State} {i : Instr} (he : Effect s i t) (hm : s.MemoryOk) (h : s.IndexOk) : t.IndexOk := by
  cases he with
  | nop => exact h
  | cfg => exact .of_empty rfl rfl
  | ignored => exact h
  | trap => exact h.of_eq rfl rfl rfl rfl rfl
  | lutWr len rgb w1 _ hlegal hlt => exact h.appendLut hm (legal_stored hlegal).1 hlt
  | lutDef _ _ hok =>
    exact h.loadTable hm (Params.defaultTable_legal hok s.mode) (Params.defaultTable_length hok s.mode)
  | fileWr => exact h.of_eq rfl rfl rfl rfl rfl
  | hdr => exact h.of_eq rfl rfl rfl rfl rfl
  | hdrTrap => exact h.of_eq rfl rfl rfl rfl rfl
  | classify px _ hle hpx => exact h.storeIndices hm hpx ((State.classifyAll_length hpx).trans_le hle)
  | encode => exact h.of_eq rfl rfl rfl rfl rfl
  | encodeTrap => exact h.of_eq rfl rfl rfl rfl rfl

/-- Settles O53: the host's side of the state holds no index, reset leaves none, and every command keeps them legal. -/
theorem stepKeepsIndexLegality : Obligations.StepKeepsIndexLegality := by
  intro s t hm h hstep
  obtain ⟨u, rfl | rfl | ⟨i, he⟩⟩ := step_withPort hstep
  · exact h.of_eq rfl rfl rfl rfl rfl
  · exact .of_empty rfl rfl
  · exact he.indexOk hm (h.of_eq rfl rfl rfl rfl rfl)

end Sys2Proof.Machine
end

section
/-! PROOFS. The state's statements: the parts of the invariant that every step keeps (O51 phase, O52 image, O54 warning), which commands write which registers and memories (O56, O57), how OUT_VALID is set (O60), the layout of STATUS and CFG (O11), and the state after reset (O13, O48). -/

namespace Sys2Proof.Machine

/-! ### PHASE, the fault registers, the output flags and the latch (R28, R30, R31, R33) -/

theorem State.PhaseOk.resetBlock (s : State) : s.resetBlock.PhaseOk := by
  constructor <;> simp [State.resetBlock, State.reset]

theorem State.PhaseOk.newRun {s : State} (h : s.PhaseOk) (fmt : Format) (mode : Mode) : (s.newRun fmt mode).PhaseOk where
  faulted := by simp
  noInfo _ := rfl
  valid := by simp
  noOutput _ := rfl
  latched := h.latched

theorem State.PhaseOk.raise {s : State} {t : Trap} (h : s.PhaseOk) (ht : t.code ≠ .none) : (s.raise t).PhaseOk where
  faulted := by simp [ht]
  noInfo hnone := absurd hnone ht
  valid := by simp
  noOutput _ := rfl
  latched := h.latched

theorem State.PhaseOk.faultCode_none {s : State} (h : s.PhaseOk) (hf : s.phase ≠ .fault) : s.faultCode = .none :=
  not_not.mp (mt h.faulted.mpr hf)

/-- From a phase before DONE the block may pass to another such phase, if it keeps the flags, the output and the latch. -/
theorem State.PhaseOk.of_running {s t : State} (h : s.PhaseOk) (hs : s.phase ≠ .fault ∧ s.phase ≠ .done)
    (ht : t.phase ≠ .fault ∧ t.phase ≠ .done) (hcode : t.faultCode = s.faultCode) (hinfo : t.faultInfo = s.faultInfo)
    (hvalid : t.outValid = s.outValid) (hlen : t.outLen = s.outLen) (hwait : t.awaitOperand = s.awaitOperand)
    (hpending : t.pending = s.pending) : t.PhaseOk where
  faulted := by rw [hcode, ← h.faulted]; exact iff_of_false ht.1 hs.1
  noInfo := by rw [hcode, hinfo]; exact h.noInfo
  valid := by rw [hvalid, h.valid]; exact iff_of_false hs.2 ht.2
  noOutput _ := hlen.trans (h.noOutput hs.2)
  latched := by rw [hwait, hpending]; exact h.latched

theorem State.PhaseOk.warnIf {s : State} (h : s.PhaseOk) (b : Bool) : (s.warnIf b).PhaseOk := { h with }

theorem State.PhaseOk.readHeader {s : State} (h : s.PhaseOk) : s.readHeader.PhaseOk := { h with }

theorem State.PhaseOk.storeOutput {s : State} (h : s.PhaseOk) (hf : s.phase ≠ .fault) (ts : List Token) :
    (s.storeOutput ts).PhaseOk where
  faulted := by simp [h.faultCode_none hf]
  noInfo := h.noInfo
  valid := by simp
  noOutput hdone := absurd rfl hdone
  latched := h.latched

/-- Every command keeps phase, fault registers, output flags and latch in agreement. -/
theorem Effect.phaseOk {s t : State} {i : Instr} (he : Effect s i t) (h : s.PhaseOk) : t.PhaseOk := by
  cases he with
  | nop => exact h
  | cfg fmt mode => exact h.newRun fmt mode
  | ignored => exact h
  | trap _ _ _ hcode => exact h.raise hcode
  | lutWr => exact { h with }
  | lutDef hp => exact h.of_running (by simp [hp]) (by simp) rfl rfl rfl rfl rfl rfl
  | fileWr => exact { h with }
  | hdr hp => exact h.of_running (by rcases hp with hp | hp <;> simp [hp]) (by simp) rfl rfl rfl rfl rfl rfl
  | hdrTrap _ _ hcode => exact h.readHeader.raise hcode
  | classify _ hp => exact h.of_running (by simp [hp]) (by simp) rfl rfl rfl rfl rfl rfl
  | encode e hp => exact (h.warnIf e.warnEmpty).storeOutput (by simp [hp]) e.tokens
  | encodeTrap e _ _ _ hcode => exact (h.warnIf e.warnEmpty).raise hcode

/-- Settles O51: the port touches only the latch, which it fills with a LUT_WR's first word; reset and every command keep
the agreement. -/
theorem stepKeepsPhaseAgreement : Obligations.StepKeepsPhaseAgreement := by
  intro s t h hstep
  cases step_effect hstep with
  | idle => exact h
  | read => exact { h with }
  | reset rest => exact State.PhaseOk.resetBlock { s with requests := rest }
  | write => exact { h with }
  | latch _ _ _ _ hopc => exact { h with latched := fun _ => hopc }
  | operand _ _ _ _ _ he => exact he.phaseOk { h with latched := by simp }
  | command _ _ _ _ _ _ _ he => exact he.phaseOk { h with }

/-! ### The header registers and IDX_LEN (R34, R35, R72, R73) -/

theorem State.ImageOk.withPort {s : State} (h : s.ImageOk) (u : State) : (s.withPort u).ImageOk := { h with }

theorem State.ImageOk.warnIf {s : State} (h : s.ImageOk) (b : Bool) : (s.warnIf b).ImageOk := { h with }

/-- Before HDR the image registers are 0, whatever the rest of the state holds. -/
theorem State.ImageOk.of_zero {s : State} (hp : s.phase = .idle ∨ s.phase = .config ∨ s.phase = .lutDef)
    (hhdr : s.dataOff = 0 ∧ s.width = 0 ∧ s.height = 0) (hlen : s.idxLen = 0) : s.ImageOk where
  noHeader _ := hhdr
  dims := by rcases hp with hp | hp | hp <;> simp [hp]
  noIndices _ := hlen
  indices := by rcases hp with hp | hp | hp <;> simp [hp]
  indicesOrNone := .inl hlen

/-- Phase FAULT asks only for IDX_LEN. -/
theorem State.ImageOk.of_fault {s : State} (hp : s.phase = .fault)
    (hlen : s.idxLen = 0 ∨ s.idxLen.toNat = s.pixelCount) : s.ImageOk where
  noHeader := by simp [hp]
  dims := by simp [hp]
  noIndices := by simp [hp]
  indices := by simp [hp]
  indicesOrNone := hlen

/-- Before HDR only the three header registers and IDX_LEN count, so LUT_WR, LUT_DEF and FILE_WR keep the agreement. -/
theorem State.ImageOk.before_header {s t : State} (h : s.ImageOk) (hs : s.phase = .config ∨ s.phase = .lutDef)
    (ht : t.phase = .config ∨ t.phase = .lutDef) (hoff : t.dataOff = s.dataOff) (hwidth : t.width = s.width)
    (hheight : t.height = s.height) (hlen : t.idxLen = s.idxLen) : t.ImageOk := by
  refine .of_zero (.inr ht) ?_ (hlen.trans (h.noIndices ?_))
  · rw [hoff, hwidth, hheight]
    exact h.noHeader (.inr hs)
  · exact .inr (hs.imp_right .inl)

theorem State.ImageOk.hdrOk {s : State} (hlen : s.idxLen = 0) (hfile : 26 ≤ s.fileLen.toNat)
    (hdims : dimsOk s.mode s.readHeader.imageW s.readHeader.signedHeight = true)
    (hcount : s.readHeader.pixelCount ≤ s.params.idxMax.toNat) :
    ({ s.readHeader with phase := .hdrOk } : State).ImageOk where
  noHeader := by simp
  dims _ := ⟨hdims, hcount, hfile⟩
  noIndices _ := hlen
  indices := by simp
  indicesOrNone := .inl hlen

theorem State.ImageOk.storeIndices {s : State} (h : s.ImageOk) (hp : s.phase = .hdrOk) {px : List Nibble}
    (hlen : px.length = s.pixelCount) : (s.storeIndices px).ImageOk := by
  obtain ⟨hdims, hcount, hfile⟩ := h.dims (.inl hp)
  have hidx : (s.storeIndices px).idxLen.toNat = (s.storeIndices px).pixelCount :=
    (toNat_ofNat_of_le (hlen.trans_le hcount)).trans hlen
  exact {
    noHeader := by simp
    dims := fun _ => ⟨hdims, hcount, hfile⟩
    noIndices := by simp
    indices := fun _ => hidx
    indicesOrNone := .inr hidx }

theorem State.ImageOk.storeOutput {s : State} (h : s.ImageOk) (hp : s.phase = .classified) (ts : List Token) :
    (s.storeOutput ts).ImageOk where
  noHeader := by simp
  dims _ := h.dims (.inr (.inl hp))
  noIndices := by simp
  indices _ := h.indices (.inl hp)
  indicesOrNone := h.indicesOrNone

/-- Every command keeps the header registers and IDX_LEN in agreement with the phase. -/
theorem Effect.imageOk {s t : State} {i : Instr} (he : Effect s i t) (h : s.ImageOk) : t.ImageOk := by
  cases he with
  | nop => exact h
  | cfg => exact .of_zero (by simp) ⟨rfl, rfl, rfl⟩ rfl
  | ignored => exact h
  | trap => exact .of_fault rfl h.indicesOrNone
  | lutWr _ _ _ hp => exact h.before_header (.inl hp) (.inl hp) rfl rfl rfl rfl
  | lutDef hp => exact h.before_header (.inl hp) (.inr rfl) rfl rfl rfl rfl
  | fileWr _ hp => exact h.before_header hp hp rfl rfl rfl rfl
  | hdr hp hfile hdims hcount =>
    exact .hdrOk (h.noIndices (.inr (hp.imp_right .inl))) hfile hdims hcount
  | hdrTrap _ hp => exact .of_fault rfl (.inl (h.noIndices (.inr (hp.imp_right .inl))))
  | classify _ hp _ hpx => exact h.storeIndices hp (State.classifyAll_length hpx)
  | encode e hp => exact (h.warnIf e.warnEmpty).storeOutput hp e.tokens
  | encodeTrap => exact .of_fault rfl h.indicesOrNone

/-- Settles O52: the host's side of the state holds no image register, reset leaves them 0, and every command keeps them
in agreement with the phase. -/
theorem stepKeepsImageAgreement : Obligations.StepKeepsImageAgreement := by
  intro s t h hstep
  obtain ⟨u, rfl | rfl | ⟨i, he⟩⟩ := step_withPort hstep
  · exact h.withPort u
  · exact .of_zero (.inl rfl) ⟨rfl, rfl, rfl⟩ rfl
  · exact he.imageOk (h.withPort u)

/-! ### WARN_EMPTY (R30, R89, R100) -/

theorem State.WarnOk.of_clear {s : State} (h : s.warnEmpty = false) : s.WarnOk := by
  simp [State.WarnOk, h]

/-- No warning stands before the run has ended. -/
theorem State.WarnOk.warnEmpty_false {s : State} (h : s.WarnOk) (hp : s.phase ≠ .done ∧ s.phase ≠ .fault) :
    s.warnEmpty = false := by
  refine Bool.eq_false_iff.mpr fun hw => ?_
  obtain ⟨_, _, hend⟩ := h hw
  exact hend.elim hp.1 hp.2

theorem State.WarnOk.raise {s : State} (h : s.WarnOk) (t : Trap) : (s.raise t).WarnOk := by
  intro hw
  obtain ⟨hmode, hfmt, _⟩ := h hw
  exact ⟨hmode, hfmt, .inr rfl⟩

/-- ENCODE's end, in DONE or FAULT: the only warning that can stand there is its own, a SPRITE1 image's. -/
theorem State.WarnOk.of_encode {s t : State} (h : s.WarnOk) (hp : s.phase = .classified) {b : Bool}
    (hb : b = true → s.mode = .sprite1 ∧ s.fmt = .asm) (hwarn : t.warnEmpty = (s.warnEmpty || b))
    (hmode : t.mode = s.mode) (hfmt : t.fmt = s.fmt) (ht : t.phase = .done ∨ t.phase = .fault) : t.WarnOk := by
  intro hw
  rw [hwarn, h.warnEmpty_false (by simp [hp]), Bool.false_or] at hw
  obtain ⟨hsprite, hasm⟩ := hb hw
  exact ⟨hmode.trans hsprite, hfmt.trans hasm, ht⟩

/-- Every command keeps WARN_EMPTY a mark of an encoded SPRITE1 image. -/
theorem Effect.warnOk {s t : State} {i : Instr} (he : Effect s i t) (h : s.WarnOk) : t.WarnOk := by
  cases he with
  | nop => exact h
  | cfg => exact .of_clear rfl
  | ignored => exact h
  | trap _ t => exact h.raise t
  | lutWr => exact h
  | lutDef hp => exact .of_clear (h.warnEmpty_false (by simp [hp]))
  | fileWr => exact h
  | hdr hp => exact .of_clear (h.warnEmpty_false (by rcases hp with hp | hp <;> simp [hp]))
  | hdrTrap t => exact State.WarnOk.raise (s := s.readHeader) h t
  | classify _ hp => exact .of_clear (h.warnEmpty_false (by simp [hp]))
  | encode _ hp _ _ hwarn => exact h.of_encode hp hwarn rfl rfl rfl (.inl rfl)
  | encodeTrap _ _ hp _ _ hwarn => exact h.of_encode hp hwarn rfl rfl rfl (.inr rfl)

/-- Settles O54: the host's side of the state holds no warning, reset clears it, and every command keeps it a mark of an
encoded SPRITE1 image. -/
theorem stepKeepsWarning : Obligations.StepKeepsWarning := by
  intro s t h hstep
  obtain ⟨u, rfl | rfl | ⟨i, he⟩⟩ := step_withPort hstep
  · exact h
  · exact .of_clear rfl
  · exact he.warnOk h

/-! ### Which commands write which registers and memories (R24, R30, R32, R34 to R36, R39) -/

section
variable {s t : State} {i : Instr}

/-- No command touches the parameters or the host's side of the state. -/
theorem Effect.port_eq (he : Effect s i t) : t.params = s.params ∧ t.withPort s = t := by
  cases he <;> exact ⟨rfl, rfl⟩

theorem Effect.mode_fmt_eq (he : Effect s i t) (hc : ∀ fmt mode, i ≠ .cfg fmt mode) :
    t.mode = s.mode ∧ t.fmt = s.fmt := by
  cases he with
  | cfg fmt mode => exact absurd rfl (hc fmt mode)
  | _ => exact ⟨rfl, rfl⟩

theorem Effect.lutCount_eq (he : Effect s i t) (hc : ∀ fmt mode, i ≠ .cfg fmt mode)
    (hw : ∀ len rgb w1, i ≠ .lutWr len rgb w1) (hd : i ≠ .lutDef) : t.lutCount = s.lutCount := by
  cases he with
  | cfg fmt mode => exact absurd rfl (hc fmt mode)
  | lutWr len rgb w1 => exact absurd rfl (hw len rgb w1)
  | lutDef => exact absurd rfl hd
  | _ => rfl

theorem Effect.fileLen_eq (he : Effect s i t) (hc : ∀ fmt mode, i ≠ .cfg fmt mode) (hw : ∀ b, i ≠ .fileWr b) :
    t.fileLen = s.fileLen := by
  cases he with
  | cfg fmt mode => exact absurd rfl (hc fmt mode)
  | fileWr b => exact absurd rfl (hw b)
  | _ => rfl

theorem Effect.header_eq (he : Effect s i t) (hc : ∀ fmt mode, i ≠ .cfg fmt mode) (hh : i ≠ .hdr) :
    t.dataOff = s.dataOff ∧ t.width = s.width ∧ t.height = s.height := by
  cases he with
  | cfg fmt mode => exact absurd rfl (hc fmt mode)
  | hdr => exact absurd rfl hh
  | hdrTrap => exact absurd rfl hh
  | _ => exact ⟨rfl, rfl, rfl⟩

theorem Effect.idxLen_eq (he : Effect s i t) (hc : ∀ fmt mode, i ≠ .cfg fmt mode) (hk : i ≠ .classify) :
    t.idxLen = s.idxLen := by
  cases he with
  | cfg fmt mode => exact absurd rfl (hc fmt mode)
  | classify => exact absurd rfl hk
  | _ => rfl

theorem Effect.warnEmpty_eq (he : Effect s i t) (hc : ∀ fmt mode, i ≠ .cfg fmt mode) (hk : i ≠ .encode) :
    t.warnEmpty = s.warnEmpty := by
  cases he with
  | cfg fmt mode => exact absurd rfl (hc fmt mode)
  | encode => exact absurd rfl hk
  | encodeTrap => exact absurd rfl hk
  | _ => rfl

/-- A command other than ENCODE keeps OUT_LEN, or clears it where it starts a run or enters phase FAULT. -/
theorem Effect.outLen_eq_or_zero (he : Effect s i t) (hk : i ≠ .encode) : t.outLen = s.outLen ∨ t.outLen = 0 := by
  cases he with
  | cfg => exact .inr rfl
  | trap => exact .inr rfl
  | hdrTrap => exact .inr rfl
  | encode => exact absurd rfl hk
  | encodeTrap => exact absurd rfl hk
  | _ => exact .inl rfl

theorem Effect.file_eq (he : Effect s i t) (hw : ∀ b, i ≠ .fileWr b) : t.mem.file = s.mem.file := by
  cases he with
  | fileWr b => exact absurd rfl (hw b)
  | _ => rfl

theorem Effect.idx_eq (he : Effect s i t) (hk : i ≠ .classify) : t.mem.idx = s.mem.idx := by
  cases he with
  | classify => exact absurd rfl hk
  | _ => rfl

theorem Effect.out_eq (he : Effect s i t) (hk : i ≠ .encode) : t.mem.out = s.mem.out := by
  cases he with
  | encode => exact absurd rfl hk
  | _ => rfl

theorem Effect.lut_eq (he : Effect s i t) (hw : ∀ len rgb w1, i ≠ .lutWr len rgb w1) (hd : i ≠ .lutDef) :
    t.mem.lut = s.mem.lut := by
  cases he with
  | lutWr len rgb w1 => exact absurd rfl (hw len rgb w1)
  | lutDef => exact absurd rfl hd
  | _ => rfl

end

/-- Settles O56, register by register. -/
theorem registersWrittenOnlyByTheirCommands : Obligations.RegistersWrittenOnlyByTheirCommands := by
  intro i s t h
  have he := exec_effect h
  obtain ⟨hparams, hport⟩ := he.port_eq
  rw [← hport]
  refine ⟨hparams, rfl, rfl, rfl, rfl, rfl, rfl, rfl, fun hc => ?_⟩
  obtain ⟨hmode, hfmt⟩ := he.mode_fmt_eq hc
  exact ⟨hmode, hfmt, he.lutCount_eq hc, he.fileLen_eq hc, he.header_eq hc, he.idxLen_eq hc,
    fun hk => ⟨he.warnEmpty_eq hc hk, he.outLen_eq_or_zero hk⟩⟩

/-- Settles O57, memory by memory: a memory that stands unchanged reads as before. -/
theorem memoriesWrittenOnlyByTheirCommands : Obligations.MemoriesWrittenOnlyByTheirCommands := by
  intro i s t h
  have he := exec_effect h
  refine ⟨fun hw a => ?_, fun hk a => ?_, fun hk a => ?_, fun hw hd a => ?_⟩
  · rw [State.fileAt, he.file_eq hw, State.fileAt]
  · rw [State.idxAt, he.idx_eq hk, State.idxAt]
  · rw [State.outAt, he.out_eq hk, State.outAt]
  · rw [State.lutAt, he.lut_eq hw hd, State.lutAt]

/-- Settles O60: of all effects only a stored output sets OUT_VALID; the others keep it or clear it. -/
theorem outValidOnlyByEncode : Obligations.OutValidOnlyByEncode := by
  intro i s t h hs ht
  cases exec_effect h with
  | encode e hp => exact ⟨rfl, hp, rfl⟩
  | _ => exact absurd ht (by simp [hs])

/-! ### STATUS and CFG as words (R24, R29) -/

/-- STATUS as a number: each field at its weight. -/
theorem State.statusWord_toNat (s : State) :
    s.statusWord.toNat = s.faultCode.code.toNat * 2 ^ 8 + s.awaitOperand.toNat * 2 ^ 5 + s.warnEmpty.toNat * 2 ^ 4
      + s.outValid.toNat * 2 ^ 3 + s.phase.code.toNat := by
  simp only [State.statusWord, toNat_joined, BitVec.toNat_ofBool, BitVec.toNat_ofNat]
  omega

/-- CFG as a number: each field at its weight. -/
theorem State.cfgWord_toNat (s : State) : s.cfgWord.toNat = s.fmt.bit.toNat * 2 ^ 4 + s.mode.bits.toNat := by
  simp only [State.cfgWord, cfgWordOf, toNat_joined, BitVec.toNat_ofNat]
  omega

/-- A field of a word is the number it holds at its weight. -/
theorem extractLsb'_of_toNat {w : Word} {k n : Nat} {x : BitVec n} (h : w.toNat / 2 ^ k % 2 ^ n = x.toNat) :
    w.extractLsb' k n = x := by
  apply BitVec.eq_of_toNat_eq
  rw [BitVec.extractLsb'_toNat, Nat.shiftRight_eq_div_pow, h]

/-- A bit of a word is the number it holds at its weight. -/
theorem getLsbD_of_toNat {w : Word} {k : Nat} {b : Bool} (h : w.toNat / 2 ^ k % 2 = b.toNat) : w.getLsbD k = b := by
  rw [BitVec.getLsbD, Nat.testBit_eq_decide_div_mod_eq, h]
  cases b <;> rfl

/-- The fields of STATUS and its reserved bits (R29). -/
theorem State.statusWord_fields (s : State) :
    s.statusWord.extractLsb' 0 3 = s.phase.code
      ∧ s.statusWord.getLsbD 3 = s.outValid ∧ s.statusWord.getLsbD 4 = s.warnEmpty
      ∧ s.statusWord.getLsbD 5 = s.awaitOperand ∧ s.statusWord.extractLsb' 6 2 = 0#2
      ∧ s.statusWord.extractLsb' 8 8 = s.faultCode.code ∧ s.statusWord.extractLsb' 16 16 = 0#16 := by
  have hsum := s.statusWord_toNat
  have hphase := s.phase.code.isLt
  have hvalid := s.outValid.toNat_lt
  have hwarn := s.warnEmpty.toNat_lt
  have hwait := s.awaitOperand.toNat_lt
  have hcode := s.faultCode.code.isLt
  exact ⟨extractLsb'_of_toNat (by omega), getLsbD_of_toNat (by omega), getLsbD_of_toNat (by omega),
    getLsbD_of_toNat (by omega), extractLsb'_of_toNat (by simp; omega), extractLsb'_of_toNat (by omega),
    extractLsb'_of_toNat (by simp; omega)⟩

/-- The fields of CFG and its reserved bits (R24). -/
theorem State.cfgWord_fields (s : State) :
    s.cfgWord.extractLsb' 0 4 = s.mode.bits ∧ s.cfgWord.extractLsb' 4 1 = s.fmt.bit
      ∧ s.cfgWord.extractLsb' 5 27 = 0#27 := by
  have hsum := s.cfgWord_toNat
  have hmode := s.mode.bits.isLt
  have hfmt := s.fmt.bit.isLt
  exact ⟨extractLsb'_of_toNat (by omega), extractLsb'_of_toNat (by omega), extractLsb'_of_toNat (by simp; omega)⟩

/-- Settles O11: the numbers value by value, the fields from the two words as sums. -/
theorem statusAndCfgLayout : Obligations.StatusAndCfgLayout := by
  refine ⟨?_, ?_, ?_, rfl, rfl, fun s => ?_⟩
  · intro p
    cases p <;> rfl
  · intro c
    cases c <;> rfl
  · intro m
    cases m <;> rfl
  · obtain ⟨hphase, hvalid, hwarn, hwait, hzero, hcode, hhigh⟩ := s.statusWord_fields
    exact ⟨hphase, hvalid, hwarn, hwait, hzero, hcode, hhigh, s.cfgWord_fields⟩

/-! ### The state after reset (R38) -/

/-- Settles O13: each register by evaluation, and each row of the host's register map reads 0. -/
theorem resetValues : Obligations.ResetValues := by
  refine ⟨rfl, rfl, rfl, rfl, rfl, rfl, rfl, rfl, rfl, rfl, rfl, rfl, rfl, rfl, rfl, rfl, rfl, rfl, fun off => ?_⟩
  unfold State.hostRead
  split <;> rfl

/-- Settles O48: each part of the invariant, from what a reset of the block meets. -/
theorem resetMeetsInvariant : Obligations.ResetMeetsInvariant where
  memory := State.reset_memoryOk
  spaces := State.SpacesOk.resetBlock State.reset
  phase := State.PhaseOk.resetBlock State.reset
  image := .of_zero (.inl rfl) ⟨rfl, rfl, rfl⟩ rfl
  index := .of_empty rfl rfl
  warn := .of_clear rfl

end Sys2Proof.Machine
end

section
/-! PROOFS. The memory's statements: the canonical form every step keeps (O49), fault entry and what a faulting command leaves (O15, O58), CLASSIFY's indices and its fault (O30, O31), the host's register map (O9, O10), the bits of a token (O12), and an output longer than OUT_MAX (O47). -/

namespace Sys2Proof

/-- A size that a register holds is not clamped (R98). -/
theorem clamp32_of_lt {n : Nat} (h : n < 2 ^ 32) : clamp32 n = BitVec.ofNat 32 n := by
  rw [clamp32, min_eq_left (by omega)]

end Sys2Proof

namespace Sys2Proof.Machine

/-! ### The canonical form (R39) -/

/-- Every command keeps the four spaces in canonical form. -/
theorem Effect.memoryOk {s t : State} {i : Instr} (he : Effect s i t) (h : s.MemoryOk) : t.MemoryOk := by
  cases he with
  | lutWr => exact State.appendLut_memoryOk h
  | lutDef => exact State.loadTable_memoryOk h
  | fileWr => exact State.appendFile_memoryOk h
  | classify => exact State.storeIndices_memoryOk h
  | encode e => exact State.storeOutput_memoryOk (s := s.warnIf e.warnEmpty) h
  | _ => exact h

/-- Settles O49: the host's side of the state is no memory, reset empties the spaces, and every command keeps their form. -/
theorem stepKeepsMemoryForm : Obligations.StepKeepsMemoryForm := by
  intro s t h hstep
  obtain ⟨u, rfl | rfl | ⟨i, he⟩⟩ := step_withPort hstep
  · exact h
  · exact State.reset_memoryOk
  · exact he.memoryOk (s := s.withPort u) h

/-! ### Fault entry (R95) -/

@[simp] theorem State.warnIf_false (s : State) : s.warnIf false = s := by simp [State.warnIf]

@[simp] theorem State.warnIf_true (s : State) : s.warnIf true = { s with warnEmpty := true } := by simp [State.warnIf]

/-- A command that enters phase FAULT raises a fault with a code: from the state it found, from the header HDR has read, or
from the warning ENCODE has given. -/
theorem Effect.fault_cases {s t : State} {i : Instr} (he : Effect s i t) (hs : s.phase ≠ .fault) (ht : t.phase = .fault) :
    ∃ f : Trap, f.code ≠ .none ∧
      (t = s.raise f ∨ (i = .hdr ∧ t = s.readHeader.raise f)
        ∨ (i = .encode ∧ t = ({ s with warnEmpty := true } : State).raise f)) := by
  cases he with
  | trap _ f _ hcode => exact ⟨f, hcode, .inl rfl⟩
  | hdrTrap f _ hcode => exact ⟨f, hcode, .inr (.inl ⟨rfl, rfl⟩)⟩
  | encodeTrap e f _ _ hcode =>
    refine ⟨f, hcode, ?_⟩
    cases e.warnEmpty with
    | false => exact .inl (by rw [State.warnIf_false])
    | true => exact .inr (.inr ⟨rfl, by rw [State.warnIf_true]⟩)
  | _ => exact absurd ht (by simp [hs])

/-- Settles O15: `raise` by its definition, and a faulting command by the three ways it can fault. -/
theorem faultEntryEffect : Obligations.FaultEntryEffect := by
  refine ⟨fun _ _ => rfl, fun i s t h hs ht => ?_⟩
  obtain ⟨f, _, hfault⟩ := (exec_effect h).fault_cases hs ht
  rw [State.readHeader_eq] at hfault
  exact ⟨f, hfault⟩

/-- Settles O58: none of the three ways to fault touches more than fault entry's fields and that command's own. -/
theorem faultingCommandFrame : Obligations.FaultingCommandFrame := by
  intro i s t h hs ht
  obtain ⟨f, hcode, rfl | ⟨rfl, rfl⟩ | ⟨rfl, rfl⟩⟩ := (exec_effect h).fault_cases hs ht
  · exact ⟨hcode, rfl, rfl, rfl, fun _ => ⟨rfl, rfl, rfl⟩, fun _ => rfl⟩
  · exact ⟨hcode, rfl, rfl, rfl, fun hi => absurd rfl hi, fun _ => rfl⟩
  · exact ⟨hcode, rfl, rfl, rfl, fun _ => ⟨rfl, rfl, rfl⟩, fun hi => absurd rfl hi⟩

/-! ### CLASSIFY's loop (R76 to R78) -/

/-- The index of pixel `i` by R77: the first entry's with its colour, 0 where there is none. -/
def State.pixelIndex (s : State) (i : Nat) : Nibble := (lookupIn s.table (s.pixelColor i)).getD 0

theorem State.pixelIndex_of_first {s : State} {i k : Nat} (hk : k < s.lutCount.toNat)
    (hrgb : (s.lutAt k).rgb = s.pixelColor i) (hfirst : ∀ j < k, (s.lutAt j).rgb ≠ s.pixelColor i) :
    s.pixelIndex i = (s.lutAt k).idx := by
  have hfound : lookupIn s.table (s.pixelColor i) = some (s.lutAt k).idx := by
    simpa [State.table] using
      lookupIn_first (tb := s.table) (by simpa [State.table] using hk) (by simpa [State.table] using hrgb)
        (by simpa [State.table] using hfirst)
  rw [State.pixelIndex, hfound, Option.getD_some]

theorem State.pixelIndex_of_unlisted {s : State} {i : Nat}
    (h : ∀ k < s.lutCount.toNat, (s.lutAt k).rgb ≠ s.pixelColor i) : s.pixelIndex i = 0 := by
  have hnone : lookupIn s.table (s.pixelColor i) = none := lookupIn_none.mpr (by simpa [State.table] using h)
  rw [State.pixelIndex, hnone, Option.getD_none]

theorem State.classifyPixel_of_missing {s : State} {i : Nat} (h : ¬ s.PixelPresent i) :
    s.classifyPixel i = .error ⟨.outOfRange, 0, clamp32 i, clamp32 (s.pixelStart i + 2), 0⟩ := by
  rw [State.classifyPixel, State.fetchPixel_of_missing h]

theorem State.classifyPixel_of_present {s : State} {i : Nat} (h : s.PixelPresent i) :
    s.classifyPixel i = s.lookupPixel (s.pixelColor i) i := by
  rw [State.classifyPixel, State.fetchPixel_of_present h]

theorem State.classifyPixel_of_mapped {s : State} {i : Nat} (hp : s.PixelPresent i) (hm : s.PixelMapped i) :
    s.classifyPixel i = .ok (s.pixelIndex i) := by
  rw [State.classifyPixel_of_present hp, State.lookupPixel, State.pixelIndex]
  cases hlook : lookupIn s.table (s.pixelColor i) with
  | some v => rfl
  | none =>
    have hmode : s.mode = .screen0 := by
      by_contra hmode
      exact State.not_pixelMapped_iff.mpr ⟨hlook, hmode⟩ hm
    exact if_pos hmode

theorem State.classifyPixel_of_unmapped {s : State} {i : Nat} (hp : s.PixelPresent i) (hm : ¬ s.PixelMapped i) :
    s.classifyPixel i = .error ⟨.unmappedColor, (s.pixelColor i).setWidth 32, clamp32 i, 0, 0⟩ := by
  obtain ⟨hlook, hmode⟩ := State.not_pixelMapped_iff.mp hm
  simp only [State.classifyPixel_of_present hp, State.lookupPixel, hlook, hmode, if_false]

/-- `tryMap` over `0 .. n-1` reports the fault of the lowest number that has one (R18). -/
theorem tryMap_range_error {β ε : Type} {f : Nat → Except ε β} {e : ε} {i n : Nat} (hi : i < n)
    (hpre : ∀ j < i, ∃ v, f j = .ok v) (he : f i = .error e) : tryMap f (List.range n) = .error e := by
  have hsplit : List.range n = List.range i ++ i :: (List.range n).drop (i + 1) := by
    have htake : List.range i = (List.range n).take i := by rw [List.take_range, min_eq_left hi.le]
    conv_lhs => rw [← List.take_append_drop i (List.range n), List.drop_eq_getElem_cons (by simpa using hi)]
    rw [htake, List.getElem_range]
  rw [hsplit]
  exact tryMap_error (fun j hj => hpre j (List.mem_range.mp hj)) he

/-- Where every length and the image fit their spaces, CLASSIFY's first three cases do not occur (R39, R32, R72). -/
theorem State.SpacesOk.classify_inside {s : State} (hs : s.SpacesOk) (hn : s.pixelCount ≤ s.params.idxMax.toNat) :
    ¬ s.params.fileMax < s.fileLen ∧ ¬ s.params.lutDepth < s.lutCount ∧ ¬ s.params.idxMax.toNat < s.pixelCount :=
  ⟨Nat.not_lt.mpr hs.fileLen, Nat.not_lt.mpr hs.lutCount, Nat.not_lt.mpr hn⟩

section
variable {s : State} (hp : s.phase = .hdrOk) (hs : s.SpacesOk) (hn : s.pixelCount ≤ s.params.idxMax.toNat)
include hp hs hn

/-- CLASSIFY whose loop ends without a fault stores the indices (R78). -/
theorem exec_classify_ok {px : List Nibble} (h : s.classifyAll = .ok px) :
    exec .classify s = .next (s.storeIndices px) := by
  simp [exec, execClassify, sequenced, accepts, hp, classifyImage, hs.classify_inside hn, h]

/-- CLASSIFY whose loop faults enters that fault and does nothing else (R78, R95). -/
theorem exec_classify_error {t : Trap} (h : s.classifyAll = .error t) : exec .classify s = .next (s.raise t) := by
  simp [exec, execClassify, sequenced, accepts, hp, classifyImage, hs.classify_inside hn, h]

end

theorem State.storeIndices_idxAt_outside {s : State} {px : List Nibble} {i : Nat} (hi : px.length ≤ i) :
    (s.storeIndices px).idxAt i = s.idxAt i :=
  Store.read_writeFrom_outside (Or.inr (by simpa using hi))

/-- Settles O30: the loop answers every pixel's index, which CLASSIFY stores from address 0 up. -/
theorem classifyBuildsIndices : Obligations.ClassifyBuildsIndices := by
  intro s hp hs hm hn hpix
  have hall : s.classifyAll = .ok ((List.range s.pixelCount).map s.pixelIndex) :=
    tryMap_ok fun i hi =>
      have ⟨hpresent, hmapped⟩ := hpix i (List.mem_range.mp hi)
      State.classifyPixel_of_mapped hpresent hmapped
  have hlen := State.classifyAll_length hall
  have hidx : ∀ i < s.pixelCount,
      (s.storeIndices ((List.range s.pixelCount).map s.pixelIndex)).idxAt i = s.pixelIndex i := by
    intro i hi
    rw [State.storeIndices_idxAt_inside hm (by simpa using hi), List.getElem_map, List.getElem_range]
  refine ⟨_, exec_classify_ok hp hs hn hall, rfl, ?_, fun i hi => ⟨fun k hk hrgb hfirst => ?_, fun hnone => ?_⟩,
    fun i hi => State.storeIndices_idxAt_outside (hlen.trans_le hi), rfl⟩
  · exact (toNat_ofNat_of_le (hlen.trans_le hn)).trans hlen
  · exact (hidx i hi).trans (State.pixelIndex_of_first hk hrgb hfirst)
  · exact (hidx i hi).trans (State.pixelIndex_of_unlisted hnone)

/-- Settles O31: the loop reports the fault of the lowest pixel that has one, and CLASSIFY raises it. -/
theorem classifyReportsLowestPixel : Obligations.ClassifyReportsLowestPixel := by
  intro s i hp hs hn hi hpre
  have hraise : ∀ {f : Trap}, s.classifyPixel i = .error f → exec .classify s = .next (s.raise f) := fun hf =>
    exec_classify_error hp hs hn <| tryMap_range_error hi
      (fun j hj => ⟨_, State.classifyPixel_of_mapped (hpre j hj).1 (hpre j hj).2⟩) hf
  have hclamp : clamp32 i = BitVec.ofNat 32 i :=
    clamp32_of_lt ((hi.trans_le hn).trans s.params.idxMax.isLt)
  rw [← hclamp]
  exact ⟨fun hmissing => hraise (State.classifyPixel_of_missing hmissing),
    fun hpresent hunmapped => hraise (State.classifyPixel_of_unmapped hpresent hunmapped)⟩

/-! ### The host's register map (R46) -/

/-- A step serves the oldest access. -/
theorem step_request {s : State} {a : HostAccess} {rest : List HostAccess} (h : s.requests = a :: rest) :
    step s = serve a { s with requests := rest } := by
  rw [step, serveNext, h]

/-- LUT_DATA's fields, shifted into place (R46). -/
theorem entryWord_eq (e : LutEntry) : entryWord e = e.idx.setWidth 32 <<< 24 ||| e.rgb.setWidth 32 := by
  apply BitVec.eq_of_toNat_eq
  have hidx := e.idx.isLt
  have hrgb := e.rgb.isLt
  have hfit : e.idx.toNat <<< 24 < 2 ^ 32 := by
    rw [Nat.shiftLeft_eq]
    omega
  rw [BitVec.toNat_or, BitVec.toNat_shiftLeft, BitVec.toNat_setWidth_of_le (by decide),
    BitVec.toNat_setWidth_of_le (by decide), Nat.mod_eq_of_lt hfit, ← Nat.shiftLeft_add_eq_or_of_lt hrgb,
    Nat.shiftLeft_eq, entryWord, toNat_joined, toNat_joined, BitVec.toNat_ofNat]
  omega

/-- Past the last register, and between registers, the map reads 0: no register's row has such an offset. -/
theorem State.hostRead_reserved (s : State) {off : Word} (h : 0x50 ≤ off.toNat ∨ off.toNat % 4 ≠ 0) :
    s.hostRead off = 0 := by
  unfold State.hostRead
  split <;> simp_all

/-- Settles O9: the map row by row, its gaps, and the read step. -/
theorem hostReadMap : Obligations.HostReadMap := by
  refine ⟨fun s => ?_, fun s _ => s.hostRead_reserved, fun s off rest h => step_request h⟩
  rw [← entryWord_eq]
  exact ⟨rfl, rfl, rfl, rfl, rfl, rfl, rfl, rfl, rfl, rfl, rfl, rfl, rfl, rfl, rfl, rfl, rfl, rfl, rfl, rfl⟩

/-- A write past CMD sets the selector at its offset, if there is one there (R36, R46). -/
theorem hostWrite_of_ne_zero {off : Word} (v : Word) (s : State) (h : off ≠ 0) :
    hostWrite off v s = .next
      { s with
        outSel := if off = 0x38 then v else s.outSel
        idxSel := if off = 0x40 then v else s.idxSel
        lutSel := if off = 0x48 then v else s.lutSel } := by
  unfold hostWrite
  split
  next h0 => exact absurd (BitVec.eq_of_toNat_eq h0) h
  next hout => obtain rfl : off = 0x38 := BitVec.eq_of_toNat_eq hout; rfl
  next hidx => obtain rfl : off = 0x40 := BitVec.eq_of_toNat_eq hidx; rfl
  next hlut => obtain rfl : off = 0x48 := BitVec.eq_of_toNat_eq hlut; rfl
  next _ hout hidx hlut =>
    rw [if_neg (by rintro rfl; exact hlut rfl), if_neg (by rintro rfl; exact hidx rfl),
      if_neg (by rintro rfl; exact hout rfl)]

/-- Settles O10: the step serves the write, which reaches a selector or nothing. -/
theorem hostWriteEffects : Obligations.HostWriteEffects := by
  intro s off v rest hr h
  rw [step_request hr]
  exact hostWrite_of_ne_zero v _ h

/-! ### Tokens (R43) -/

/-- A DATA token's number is its byte's. -/
theorem Token.data_bits_toNat (b : Byte) : (Token.data b).bits.toNat = b.toNat := by
  rw [Token.bits, toNat_joined]
  simp

/-- Settles O12: DATA by its fields, the other tokens by evaluation, and no kind is 3. -/
theorem tokenBits : Obligations.TokenBits := by
  refine ⟨Token.data_bits_toNat, rfl, rfl, rfl, rfl, fun t => ?_⟩
  cases t with
  | data b =>
    rw [Token.data_bits_toNat]
    have := b.isLt
    omega
  | rowBreak => decide
  | sect k => cases k <;> decide

/-! ### An output longer than OUT_MAX (R44, R79) -/

/-- An encoder that ends without a fault goes on to the capacity check, its warning given (R79). -/
theorem exec_encode_finish {s : State} {fmt : Format} {mode : Mode} {e : Encoded} (hr : s.EncodeReady fmt mode)
    (he : s.encoded = .ok e) : exec .encode s = .next (finishOutput e.tokens (s.warnIf e.warnEmpty)) := by
  obtain ⟨hp, -, hm, hd, hn, -⟩ := hr
  rw [← hm] at hd
  simp [exec, execEncode, sequenced, accepts, hp, encodeImage, hd, Nat.not_lt.mpr hn, he]

/-- Settles O47: the capacity check comes after the warning and raises on the output's length. -/
theorem encodeOutputTooLong : Obligations.EncodeOutputTooLong := by
  intro s fmt mode e hr he hlong
  rw [exec_encode_finish hr he, finishOutput, if_pos (by simpa using hlong)]
  rfl

end Sys2Proof.Machine
end

section
/-! PROOFS. The encoding's statements: decode and encode are inverse (O2, O3), the illegal words and the hint words (O4, O20), the match and mask rows (O5), the words of a LUT_WR (O7), and the sample words (O1). -/

namespace Sys2Proof

/-! ### The illegal words (R61) -/

/-- R61's list, by the word's fields. -/
theorem isIllegalWord_iff_fields {w : Word} :
    isIllegalWord w = true ↔
      8 ≤ (opcodeOf w).toNat
        ∨ ((opcodeOf w).toNat = 1 ∧ (w.extractLsb' 5 23 ≠ 0 ∨ 8 ≤ (w.extractLsb' 0 4).toNat))
        ∨ (((opcodeOf w).toNat = 3 ∨ (opcodeOf w).toNat = 5 ∨ (opcodeOf w).toNat = 6 ∨ (opcodeOf w).toNat = 7)
          ∧ w.extractLsb' 0 28 ≠ 0)
        ∨ ((opcodeOf w).toNat = 4 ∧ w.extractLsb' 8 20 ≠ 0) := by
  rw [isIllegalWord, ← opcodeOf]
  simp only [Bool.or_eq_true, Bool.and_eq_true, decide_eq_true_eq, beq_iff_eq, bne_iff_ne, List.contains_iff_mem,
    List.mem_cons, List.not_mem_nil, or_false, or_assoc]

/-- A field of a word is nonzero exactly where its number is. -/
theorem extractLsb'_ne_zero_iff {w : Word} {k n : Nat} : w.extractLsb' k n ≠ 0 ↔ w.toNat / 2 ^ k % 2 ^ n ≠ 0 := by
  rw [Ne, ← BitVec.toNat_inj, BitVec.extractLsb'_toNat, Nat.shiftRight_eq_div_pow]
  simp

/-- R61's list, by the word's number. -/
theorem isIllegalWord_iff {w : Word} :
    isIllegalWord w = true ↔
      8 ≤ w.toNat / 2 ^ 28
        ∨ (w.toNat / 2 ^ 28 = 1 ∧ (w.toNat % 2 ^ 28 / 2 ^ 5 ≠ 0 ∨ 8 ≤ w.toNat % 2 ^ 4))
        ∨ ((w.toNat / 2 ^ 28 = 3 ∨ w.toNat / 2 ^ 28 = 5 ∨ w.toNat / 2 ^ 28 = 6 ∨ w.toNat / 2 ^ 28 = 7)
            ∧ w.toNat % 2 ^ 28 ≠ 0)
        ∨ (w.toNat / 2 ^ 28 = 4 ∧ w.toNat % 2 ^ 28 / 2 ^ 8 ≠ 0) := by
  rw [isIllegalWord_iff_fields]
  simp only [toNat_opcodeOf, extractLsb'_ne_zero_iff, BitVec.extractLsb'_toNat, Nat.shiftRight_eq_div_pow]
  omega

/-! ### Decode of encode (R56 to R59) -/

theorem opcodeOf_firstWord (i : Instr) : (opcodeOf i.firstWord).toNat = Laws.Length.opcode i := by
  cases i with
  | nop hint => exact (Laws.Length.nop hint).1
  | cfg fmt mode => exact (Laws.Length.cfg fmt mode).1
  | lutWr len rgb w1 => exact (Laws.Length.lutWr len rgb w1).1
  | lutDef => exact Laws.Length.lutDef.1
  | fileWr byte => exact (Laws.Length.fileWr byte).1
  | hdr => exact Laws.Length.hdr.1
  | classify => exact Laws.Length.classify.1
  | encode => exact Laws.Length.encode.1
  | illegal w => exact (Laws.Length.illegal w).1

/-- The second word matters to a LUT_WR only (R56). -/
theorem decodeCommand_operand {w : Word} (h : opcodeOf w ≠ 2) (w1 w2 : Word) :
    decodeCommand w w1 = decodeCommand w w2 := by
  have h2 : (opcodeOf w).toNat ≠ 2 := fun h2 => h (BitVec.eq_of_toNat_eq h2)
  unfold decodeCommand
  split
  case h_3 hopc => exact absurd hopc h2
  all_goals rfl

theorem Mode.ofBits_eq_none {b : BitVec 4} (h : 8 ≤ b.toNat) : Mode.ofBits b = none := by
  unfold Mode.ofBits
  split
  case h_9 => rfl
  all_goals omega

/-- A word of R61's list decodes to itself, whatever follows it. -/
theorem decodeCommand_illegal {w : Word} (h : isIllegalWord w = true) (w1 : Word) :
    decodeCommand w w1 = .illegal w := by
  rw [isIllegalWord_iff_fields] at h
  unfold decodeCommand
  split
  case h_2 hopc =>
    rcases eq_or_ne (w.extractLsb' 5 23) 0 with h0 | h0
    · have hmode : 8 ≤ (w.extractLsb' 0 4).toNat := by simpa [hopc, h0] using h
      simp [h0, Mode.ofBits_eq_none hmode]
    · exact if_pos h0
  case h_1 hopc | h_3 hopc => simp [hopc] at h
  case h_9 => rfl
  all_goals
    rename_i hopc
    exact if_pos (by simpa [hopc] using h)

/-- A command's second word, 0 where it has none. -/
def Instr.secondWord : Instr → Word
  | .lutWr _ _ w1 => w1
  | _ => 0

/-- Each format's fields are read back from where the first word has them (R57, R58). -/
theorem decodeCommand_firstWord {i : Instr} (h : i.wf = true) : decodeCommand i.firstWord i.secondWord = i := by
  have hopc := opcodeOf_firstWord i
  cases i with
  | nop hint =>
    simp only [decodeCommand, hopc, Laws.Length.opcode]
    exact congrArg Instr.nop BitVec.extractLsb'_append_eq_right
  | cfg fmt mode => cases fmt <;> cases mode <;> rfl
  | lutWr len rgb w1 =>
    have hlen : (Instr.lutWr len rgb w1).firstWord.extractLsb' 24 4 = len := by
      rw [Instr.firstWord, BitVec.extractLsb'_append_eq_of_le (le_refl 24), BitVec.extractLsb'_append_eq_right]
    have hrgb : (Instr.lutWr len rgb w1).firstWord.extractLsb' 0 24 = rgb := BitVec.extractLsb'_append_eq_right
    simp only [decodeCommand, hopc, Laws.Length.opcode, lutWrOf, hlen, hrgb, Instr.secondWord]
  | fileWr byte =>
    have hzero : (Instr.fileWr byte).firstWord.extractLsb' 8 20 = 0 := by
      rw [Instr.firstWord, BitVec.extractLsb'_append_eq_of_le (le_refl 8), BitVec.extractLsb'_append_eq_right]
      rfl
    have hbyte : (Instr.fileWr byte).firstWord.extractLsb' 0 8 = byte := BitVec.extractLsb'_append_eq_right
    simp only [decodeCommand, hopc, Laws.Length.opcode, hzero, hbyte, ne_eq, not_true_eq_false, if_false]
  | illegal w => exact decodeCommand_illegal h _
  | lutDef | hdr | classify | encode => rfl

/-- The words of a complete command that begins with `w`: a second one where OPC is 2 (R56). -/
def commandWords (w w1 : Word) : List Word := if opcodeOf w = 2 then [w, w1] else [w]

theorem decode_commandWords (w w1 : Word) (rest : List Word) :
    decode (commandWords w w1 ++ rest) = .ok (decodeCommand w w1, rest) := by
  by_cases h : opcodeOf w = 2
  · simp only [commandWords, if_pos h, List.cons_append, List.nil_append, decode]
  · simp only [commandWords, if_neg h, List.cons_append, List.nil_append, decode, decodeCommand_operand h w1 0]

/-- An illegal word is one whole command: R61 has no word with OPC 2. -/
theorem opcodeOf_ne_two_of_illegal {w : Word} (h : isIllegalWord w = true) : opcodeOf w ≠ 2 := by
  rw [Ne, Machine.opcodeOf_eq_two]
  rw [isIllegalWord_iff] at h
  omega

theorem encode_eq_commandWords {i : Instr} (h : i.wf = true) : encode i = commandWords i.firstWord i.secondWord := by
  have hopc := opcodeOf_firstWord i
  cases i with
  | lutWr len rgb w1 => exact (if_pos (BitVec.eq_of_toNat_eq hopc)).symm
  | illegal w => exact (if_neg (opcodeOf_ne_two_of_illegal h)).symm
  | _ => exact (if_neg fun h2 => by rw [h2] at hopc; cases hopc).symm

/-- Settles O2: a command's words are its first word's with its second, and the decoder reads its fields back. -/
theorem encodeDecodeRoundTrip : Obligations.EncodeDecodeRoundTrip := by
  intro i rest h
  rw [encode_eq_commandWords h, decode_commandWords, decodeCommand_firstWord h]

/-! ### Encode of decode (R56, R57, R61) -/

theorem Mode.exists_bits {n : Nat} (h : n < 8) : ∃ m : Mode, m.bits.toNat = n := by
  have hall : ∀ k < 8, ∃ m ∈ allModes, m.bits.toNat = k := by decide
  obtain ⟨m, -, hm⟩ := hall n h
  exact ⟨m, hm⟩

theorem Format.exists_bit {n : Nat} (h : n < 2) : ∃ f : Format, f.bit.toNat = n := by
  obtain rfl | rfl : n = 0 ∨ n = 1 := by omega
  · exact ⟨.asm, rfl⟩
  · exact ⟨.sif, rfl⟩

/-! The first words of the commands with fields, as numbers: each field at its weight (R57). -/

theorem nop_firstWord_toNat (hint : BitVec 28) : (Instr.nop hint).firstWord.toNat = hint.toNat := by
  rw [Instr.firstWord, toNat_joined, BitVec.toNat_ofNat]
  omega

theorem cfg_firstWord_toNat (fmt : Format) (mode : Mode) :
    (Instr.cfg fmt mode).firstWord.toNat = 2 ^ 28 + fmt.bit.toNat * 2 ^ 4 + mode.bits.toNat := by
  simp only [Instr.firstWord, toNat_joined, BitVec.toNat_ofNat]
  omega

theorem lutWr_firstWord_toNat (len : BitVec 4) (rgb : Rgb) (w1 : Word) :
    (Instr.lutWr len rgb w1).firstWord.toNat = 2 * 2 ^ 28 + len.toNat * 2 ^ 24 + rgb.toNat := by
  simp only [Instr.firstWord, toNat_joined, BitVec.toNat_ofNat]
  omega

theorem fileWr_firstWord_toNat (byte : Byte) : (Instr.fileWr byte).firstWord.toNat = 4 * 2 ^ 28 + byte.toNat := by
  simp only [Instr.firstWord, toNat_joined, BitVec.toNat_ofNat]
  omega

/-- Every word is some command's first: R61 lists all the words that no other format has. -/
theorem exists_firstWord (w w1 : Word) :
    ∃ i : Instr, i.wf = true ∧ i.firstWord = w ∧ (opcodeOf w = 2 → i.secondWord = w1) := by
  have hw := w.isLt
  by_cases hill : isIllegalWord w = true
  · exact ⟨.illegal w, hill, rfl, fun h2 => absurd h2 (opcodeOf_ne_two_of_illegal hill)⟩
  rw [isIllegalWord_iff] at hill
  simp only [Machine.opcodeOf_eq_two, ← BitVec.toNat_inj (x := Instr.firstWord _)]
  obtain hopc | hopc | hopc | hopc | hopc | hopc | hopc | hopc :
      w.toNat / 2 ^ 28 = 0 ∨ w.toNat / 2 ^ 28 = 1 ∨ w.toNat / 2 ^ 28 = 2 ∨ w.toNat / 2 ^ 28 = 3
        ∨ w.toNat / 2 ^ 28 = 4 ∨ w.toNat / 2 ^ 28 = 5 ∨ w.toNat / 2 ^ 28 = 6 ∨ w.toNat / 2 ^ 28 = 7 := by omega
  · refine ⟨.nop (BitVec.ofNat 28 w.toNat), rfl, ?_, by omega⟩
    rw [nop_firstWord_toNat, BitVec.toNat_ofNat]
    omega
  · obtain ⟨mode, hmode⟩ := Mode.exists_bits (n := w.toNat % 2 ^ 4) (by omega)
    obtain ⟨fmt, hfmt⟩ := Format.exists_bit (n := w.toNat / 2 ^ 4 % 2) (by omega)
    refine ⟨.cfg fmt mode, rfl, ?_, by omega⟩
    rw [cfg_firstWord_toNat, hmode, hfmt]
    omega
  · refine ⟨.lutWr (BitVec.ofNat 4 (w.toNat / 2 ^ 24)) (BitVec.ofNat 24 w.toNat) w1, rfl, ?_, fun _ => rfl⟩
    rw [lutWr_firstWord_toNat, BitVec.toNat_ofNat, BitVec.toNat_ofNat]
    omega
  · exact ⟨.lutDef, rfl, by simp [Instr.firstWord]; omega, by omega⟩
  · refine ⟨.fileWr (BitVec.ofNat 8 w.toNat), rfl, ?_, by omega⟩
    rw [fileWr_firstWord_toNat, BitVec.toNat_ofNat]
    omega
  · exact ⟨.hdr, rfl, by simp [Instr.firstWord]; omega, by omega⟩
  · exact ⟨.classify, rfl, by simp [Instr.firstWord]; omega, by omega⟩
  · exact ⟨.encode, rfl, by simp [Instr.firstWord]; omega, by omega⟩

/-- The decoder's answer to two words: the well-formed command that begins with them. -/
theorem decodeCommand_spec (w w1 : Word) :
    (decodeCommand w w1).wf = true ∧ (decodeCommand w w1).firstWord = w
      ∧ (opcodeOf w = 2 → (decodeCommand w w1).secondWord = w1) := by
  obtain ⟨i, hwf, rfl, hsecond⟩ := exists_firstWord w w1
  have hdec : decodeCommand i.firstWord w1 = i := by
    by_cases h2 : opcodeOf i.firstWord = 2
    · rw [← hsecond h2, decodeCommand_firstWord hwf]
    · rw [decodeCommand_operand h2 w1 i.secondWord, decodeCommand_firstWord hwf]
  rw [hdec]
  exact ⟨hwf, rfl, hsecond⟩

/-- Settles O3: the decoded command is the one that begins with the words, and OPC decides how many they are. -/
theorem decodedCommandReencodes : Obligations.DecodedCommandReencodes := by
  intro w w1
  obtain ⟨hwf, hfirst, hsecond⟩ := decodeCommand_spec w w1
  refine ⟨hwf, ?_⟩
  rw [encode_eq_commandWords hwf, hfirst, commandWords]
  by_cases h2 : opcodeOf w = 2
  · rw [if_pos h2, if_pos (Machine.opcodeOf_eq_two.mp h2), hsecond h2]
  · rw [if_neg h2, if_neg (mt Machine.opcodeOf_eq_two.mpr h2)]

/-- The decoder answers ILLEGAL exactly for the words of R61's list. -/
theorem decodeCommand_eq_illegal_iff {w w1 : Word} : decodeCommand w w1 = .illegal w ↔ isIllegalWord w = true := by
  refine ⟨fun h => ?_, fun h => decodeCommand_illegal h w1⟩
  have hwf := (decodeCommand_spec w w1).1
  rwa [h] at hwf

end Sys2Proof

namespace Sys2Proof.Machine

/-- An illegal word raises IllegalCommand with the word, outside phase FAULT (R60, R61). -/
theorem exec_illegal {w : Word} {s : State} (hf : s.phase ≠ .fault) :
    exec (.illegal w) s = .next (s.raise { code := .illegalCommand, a := w }) :=
  if_neg hf

end Sys2Proof.Machine

namespace Sys2Proof

/-- Settles O4: R61's list by the words' numbers, the fault by its definition, and the hint words as NOP's own. -/
theorem illegalAndHintEncodings : Obligations.IllegalAndHintEncodings := by
  refine ⟨fun w => ⟨fun hopc => ?_, fun hle => ?_⟩, fun w s hf => Machine.exec_illegal hf, fun _ _ => rfl⟩
  · rw [Machine.decode_one hopc, Except.ok.injEq, Prod.mk.injEq, eq_self_iff_true, and_true,
      decodeCommand_eq_illegal_iff, isIllegalWord_iff]
  · have hw : (Instr.nop (w.setWidth 28)).firstWord = w := by
      apply BitVec.eq_of_toNat_eq
      rw [nop_firstWord_toNat, BitVec.toNat_setWidth]
      omega
    have hround : decode [(Instr.nop (w.setWidth 28)).firstWord] = .ok (.nop (w.setWidth 28), []) :=
      encodeDecodeRoundTrip (.nop (w.setWidth 28)) [] rfl
    rwa [hw] at hround

/-! ### The match and mask rows (R59) -/

theorem opcodeRows_mnemonics_nodup : (opcodeRows.map OpcodeRow.mnemonic).Nodup := by
  simp [opcodeRows]

/-- A legal command has the mnemonic of the row that its OPC numbers. -/
theorem mnemonic_of_legal {i : Instr} (h : ∀ w, i ≠ .illegal w) :
    (opcodeRows.map OpcodeRow.mnemonic)[Laws.Length.opcode i]? = some i.mnemonic := by
  cases i with
  | illegal w => exact absurd rfl (h w)
  | _ => rfl

/-- A row's mnemonic is the decoded command's exactly where OPC numbers the row and R61 does not list the word. -/
theorem mnemonic_decodeCommand_iff {w w1 : Word} {k : Nat} {row : OpcodeRow} (hk : opcodeRows[k]? = some row) :
    (decodeCommand w w1).mnemonic = row.mnemonic ↔ w.toNat / 2 ^ 28 = k ∧ ¬ isIllegalWord w = true := by
  have hrow : (opcodeRows.map OpcodeRow.mnemonic)[k]? = some row.mnemonic := by rw [List.getElem?_map, hk]; rfl
  by_cases hill : isIllegalWord w = true
  · have hnot : "ILLEGAL" ∉ opcodeRows.map OpcodeRow.mnemonic := by simp [opcodeRows]
    rw [decodeCommand_illegal hill]
    refine iff_of_false (fun h => hnot ?_) fun h => h.2 hill
    rw [show "ILLEGAL" = row.mnemonic from h]
    exact List.mem_of_getElem? hrow
  · obtain ⟨hwf, hfirst, -⟩ := decodeCommand_spec w w1
    have hlegal : ∀ x, decodeCommand w w1 ≠ .illegal x := by
      intro x hx
      rw [hx] at hwf hfirst
      exact hill (hfirst ▸ hwf)
    have hmn := mnemonic_of_legal hlegal
    rw [← opcodeOf_firstWord, hfirst, toNat_opcodeOf] at hmn
    constructor
    · intro h
      have hbound := (List.getElem?_eq_some_iff.mp hmn).1
      exact ⟨(List.getElem?_inj hbound opcodeRows_mnemonics_nodup).mp (by rw [hmn, hrow, h]), hill⟩
    · rintro ⟨rfl, -⟩
      exact Option.some.inj (hmn.symm.trans hrow)

/-- A mask of all bits from `j` up asks for the number above bit `j`. -/
theorem and_mask_eq_iff {w mask pattern : Word} {j n : Nat} (hm : mask = BitVec.allOnes 32 <<< j)
    (hp : pattern.toNat = n * 2 ^ j) : w &&& mask = pattern ↔ w.toNat / 2 ^ j = n := by
  have hfit : w.toNat / 2 ^ j * 2 ^ j < 2 ^ 32 := (Nat.div_mul_le_self _ _).trans_lt w.isLt
  rw [hm, ← BitVec.shiftLeft_ushiftRight, ← BitVec.toNat_inj, BitVec.toNat_shiftLeft, BitVec.toNat_ushiftRight,
    Nat.shiftRight_eq_div_pow, Nat.shiftLeft_eq, Nat.mod_eq_of_lt hfit, hp]
  exact Nat.mul_left_inj (by positivity)

/-- What R59 says of the row of OPC `k`, whose mask leaves the low `j` bits free, by the word's number. -/
theorem row_selects_iff {w w1 : Word} {row : OpcodeRow} (k j n : Nat) (hk : opcodeRows[k]? = some row)
    (hm : row.mask = BitVec.allOnes 32 <<< j) (hp : row.pattern.toNat = n * 2 ^ j) :
    ((decodeCommand w w1).mnemonic = row.mnemonic ↔
        w &&& row.mask = row.pattern ∧ (row.mnemonic = "CFG" → w.toNat % 16 ≤ 7)) ↔
      ((w.toNat / 2 ^ 28 = k ∧ ¬ isIllegalWord w = true) ↔
        w.toNat / 2 ^ j = n ∧ (row.mnemonic = "CFG" → w.toNat % 16 ≤ 7)) := by
  rw [mnemonic_decodeCommand_iff hk, and_mask_eq_iff hm hp]

/-- Settles O5: row by row, the numbers under the mask are those of the row's OPC that R61 does not list. -/
theorem matchMaskRowsSelect : Obligations.MatchMaskRowsSelect := by
  intro w w1 row hrow
  have hw := w.isLt
  simp only [opcodeRows, List.mem_cons, List.not_mem_nil, or_false] at hrow
  obtain rfl | rfl | rfl | rfl | rfl | rfl | rfl | rfl := hrow
  · exact (row_selects_iff 0 28 0 rfl rfl rfl).mpr (by simp [isIllegalWord_iff]; omega)
  · exact (row_selects_iff 1 5 0x800000 rfl rfl rfl).mpr (by simp [isIllegalWord_iff]; omega)
  · exact (row_selects_iff 2 28 2 rfl rfl rfl).mpr (by simp [isIllegalWord_iff]; omega)
  · exact (row_selects_iff 3 0 0x30000000 rfl rfl rfl).mpr (by simp [isIllegalWord_iff]; omega)
  · exact (row_selects_iff 4 8 0x400000 rfl rfl rfl).mpr (by simp [isIllegalWord_iff]; omega)
  · exact (row_selects_iff 5 0 0x50000000 rfl rfl rfl).mpr (by simp [isIllegalWord_iff]; omega)
  · exact (row_selects_iff 6 0 0x60000000 rfl rfl rfl).mpr (by simp [isIllegalWord_iff]; omega)
  · exact (row_selects_iff 7 0 0x70000000 rfl rfl rfl).mpr (by simp [isIllegalWord_iff]; omega)

/-- Settles O1, word list by word list, by evaluation. -/
theorem decodeSampleWords : Obligations.DecodeSampleWords :=
  ⟨rfl, rfl, rfl, rfl, rfl, rfl, rfl, rfl, rfl, rfl, rfl, rfl, rfl⟩

end Sys2Proof

namespace Sys2Proof.Machine

/-! ### The words of a LUT_WR at the port (R33, R56) -/

theorem deliver_latch {s : State} {w : Word} (hw : s.awaitOperand = false) (h2 : w.toNat / 2 ^ 28 = 2) :
    deliver w s = .next (s.latch w) := by
  simp [deliver, hw, decode_two h2]

theorem deliver_operand {s : State} {w : Word} (hw : s.awaitOperand = true) :
    deliver w s = exec (lutWrOf s.pending w) s.unlatch :=
  if_pos hw

/-- No access but a CMD write or a reset touches the latch. -/
theorem serve_keeps_awaitOperand {s t : State} {a : HostAccess} (hreset : a ≠ .reset) (hcmd : ∀ w, a ≠ .write 0 w)
    (h : serve a s = .next t) : t.awaitOperand = s.awaitOperand := by
  cases a with
  | read off =>
    cases h
    rfl
  | write off v =>
    rw [serve, hostWrite_of_ne_zero v s fun h0 => hcmd v (h0 ▸ rfl)] at h
    cases h
    rfl
  | reset => exact absurd rfl hreset

/-- Settles O7, clause by clause: a delivered command, first word and second word, the second word in phase FAULT, and every
other access. -/
theorem lutWrWordsPair : Obligations.LutWrWordsPair := by
  refine ⟨fun s w rest hr hw hopc => ?_, fun s w rest hr hw hopc => ?_, fun s w rest hr hw => ?_,
    fun s rest w hr hw hf => ?_, fun s a rest t hr hreset hcmd hw hstep => ?_⟩
  · exact ⟨_, decode_one hopc, stepRunsDecodedCommand s w rest _ hr hw (decode_one hopc)⟩
  · rw [step_cmd hr]
    exact deliver_latch hw hopc
  · rw [step_cmd hr, ← lutWrOf_eq]
    exact deliver_operand hw
  · rw [step_cmd hr]
    exact (deliver_operand (s := { s with requests := rest }) hw).trans (exec_ignored hf (by simp [lutWrOf]))
  · rw [step_request hr] at hstep
    obtain ⟨-, -, -, hwait, -⟩ := s.statusWord_fields
    exact ⟨(serve_keeps_awaitOperand hreset hcmd hstep).trans hw, hwait.trans hw⟩

/-- Settles O20: what an illegal word does is fault entry. -/
theorem illegalWordRaises : Obligations.IllegalWordRaises := by
  intro w s hf
  exact ⟨_, exec_illegal hf, rfl, rfl, rfl, rfl⟩

end Sys2Proof.Machine
end

section
/-! PROOFS. The control commands' statements: CFG (O19) and NOP (O18). -/

namespace Sys2Proof

/-! ### The word of a one-word command (R56, R57) -/

/-- A word decodes to a one-word command exactly where it is the command's own word. -/
theorem decode_single_iff {i : Instr} {w : Word} (hwf : i.wf = true) (hopc : Laws.Length.opcode i ≠ 2) :
    decode [w] = .ok (i, []) ↔ i.firstWord = w := by
  constructor
  · intro h
    have hw : w.toNat / 2 ^ 28 ≠ 2 := fun h2 => by simp [Machine.decode_two h2] at h
    rw [Machine.decode_one hw, Except.ok.injEq, Prod.mk.injEq] at h
    exact h.1 ▸ (decodeCommand_spec w 0).2.1
  · rintro rfl
    have hone : encode i = [i.firstWord] := by
      rw [encode_eq_commandWords hwf]
      exact if_neg fun h2 => hopc (by rw [← opcodeOf_firstWord, h2]; rfl)
    simpa [hone] using encodeDecodeRoundTrip i [] hwf

/-- The words of NOP are those with OPC 0 (R59). -/
theorem decode_nop_iff {w : Word} : (∃ hint, decode [w] = .ok (.nop hint, [])) ↔ w.toNat / 2 ^ 28 = 0 := by
  constructor
  · rintro ⟨hint, h⟩
    have hword : (Instr.nop hint).firstWord = w := (decode_single_iff rfl (by simp [Laws.Length.opcode])).mp h
    rw [← toNat_opcodeOf, ← hword, opcodeOf_firstWord, Laws.Length.opcode]
  · intro h
    obtain ⟨-, hdecode⟩ := illegalAndHintEncodings.1 w
    exact ⟨_, hdecode (by omega)⟩

/-- The words of CFG are those of R59's row whose fields hold the format and the mode (R58). -/
theorem decode_cfg_iff {fmt : Format} {mode : Mode} {w : Word} :
    decode [w] = .ok (.cfg fmt mode, []) ↔
      w.toNat / 2 ^ 5 = 0x800000 ∧ fmt.bit.toNat = w.toNat / 2 ^ 4 % 2 ^ 1 ∧ mode.bits.toNat = w.toNat % 2 ^ 4 := by
  have hfmt := fmt.bit.isLt
  have hmode := mode.bits.isLt
  rw [decode_single_iff rfl (by simp [Laws.Length.opcode]), ← BitVec.toNat_inj, cfg_firstWord_toNat]
  omega

end Sys2Proof

namespace Sys2Proof.Machine

/-- A word of R61's list, delivered with no operand awaited, runs as an illegal word. -/
theorem deliver_illegal {s : State} {w : Word} (hw : s.awaitOperand = false) (hill : isIllegalWord w = true) :
    deliver w s = exec (.illegal w) s := by
  have hopc : Laws.Length.opcode (.illegal w) ≠ 2 :=
    fun h2 => opcodeOf_ne_two_of_illegal hill (opcodeOf_eq_two.mpr h2)
  exact deliver_command hw ((decode_single_iff (i := .illegal w) hill hopc).mpr rfl)

/-- Settles O19, clause by clause: the start of a run, the words under R59's mask, and a malformed word, which is one of R61's
list. -/
theorem cfgStartsRun : Obligations.CfgStartsRun := by
  refine ⟨fun fmt mode s => rfl, fun fmt mode w => ?_, fun w s rest hr hw hopc hbad => ?_⟩
  · have hrow : w &&& 0xFFFFFFE0 = 0x10000000 ↔ w.toNat / 2 ^ 5 = 0x800000 := and_mask_eq_iff rfl rfl
    rw [decode_cfg_iff, hrow]
    simp only [← BitVec.toNat_inj, BitVec.extractLsb'_toNat, Nat.shiftRight_eq_div_pow, Nat.pow_zero, Nat.div_one]
  · have hill : isIllegalWord w = true := isIllegalWord_iff.mpr (.inr (.inl ⟨hopc, hbad⟩))
    have hstep : step s = exec (.illegal w) { s with requests := rest } :=
      (step_cmd hr).trans (deliver_illegal hw hill)
    rw [hstep]
    exact ⟨fun hf => exec_ignored hf fun _ _ => nofun, fun hf => exec_illegal hf⟩

/-- Settles O18, clause by clause: the effect, the words under R59's mask, and NOP's word as an awaited operand. -/
theorem nopLeavesStateUnchanged : Obligations.NopLeavesStateUnchanged := by
  refine ⟨fun hint s => rfl, fun w => ?_, fun s hint rest hr hw => ?_⟩
  · have hrow : w &&& 0xF0000000 = 0x00000000 ↔ w.toNat / 2 ^ 28 = 0 := and_mask_eq_iff rfl rfl
    exact hrow.trans decode_nop_iff.symm
  · rw [step_cmd hr]
    exact deliver_operand hw

end Sys2Proof.Machine
end

section
/-! PROOFS. The palette's statements: the legal indices of every mode (O21) and LUT_WR (O22). -/

namespace Sys2Proof

/-- Settles O21: each mode's set by its row of R67's table, and their common range. -/
theorem legalIndices : Obligations.LegalIndices := by
  intro m v
  refine ⟨?_, Machine.Mode.legal_range⟩
  cases m <;> exact decide_eq_true_iff

/-- Two words of which the first has OPC 2 are one LUT_WR (R56, R59). -/
theorem decode_opcode_two {w : Word} (h : opcodeOf w = 2) (w1 : Word) : decode [w, w1] = .ok (lutWrOf w w1, []) := by
  have hwords : [w, w1] = commandWords w w1 ++ [] := by simp [commandWords, h]
  have hcommand : decodeCommand w w1 = lutWrOf w w1 := by simp [decodeCommand, h]
  rw [hwords, decode_commandWords, hcommand]

end Sys2Proof

namespace Sys2Proof.Machine

/-! ### LUT_WR's outcomes, one for each case of R69 -/

variable {s : State} {len : BitVec 4} {rgb : Rgb} {w1 : Word}

theorem accepts_lutWr_iff : accepts (.lutWr len rgb w1) s = true ↔ s.phase = .config := decide_eq_true_iff

/-- LUT_WR where its phase accepts it: R69's checks and the append. -/
theorem exec_lutWr_accepted (hp : s.phase = .config) : exec (.lutWr len rgb w1) s = writeLut len rgb w1 s :=
  sequenced_accepted (by simp [hp]) (accepts_lutWr_iff.mpr hp)

theorem writeLut_badLength (hlen : len ≠ 3) :
    writeLut len rgb w1 s = .next (s.raise { code := .invalidPaletteEntry, a := s.lutCount, b := len.setWidth 32 }) :=
  if_pos hlen

theorem writeLut_badIndex (hidx : s.mode.legal (signedIndex w1) = false) :
    writeLut 3 rgb w1 s =
      .next (s.raise { code := .invalidPaletteIndex, a := s.lutCount, b := w1, c := s.modeWord }) := by
  rw [writeLut, if_neg (not_not_intro rfl), if_pos hidx]

section
variable (hidx : s.mode.legal (signedIndex w1) = true)
include hidx

theorem writeLut_full (hfull : s.lutCount = s.params.lutDepth) :
    writeLut 3 rgb w1 s =
      .next (s.raise { code := .capacityExceeded, a := 0, b := clamp32 (s.lutCount.toNat + 1) }) := by
  rw [writeLut, if_neg (not_not_intro rfl), if_neg (by simp [hidx]), if_pos hfull]

theorem writeLut_append (hlt : s.lutCount.toNat < s.params.lutDepth.toNat) :
    writeLut 3 rgb w1 s = .next (s.appendLut ⟨rgb, w1.setWidth 4⟩) := by
  have hnotFull : s.lutCount ≠ s.params.lutDepth := fun h => hlt.ne (congrArg BitVec.toNat h)
  have hinside : ¬ s.params.lutDepth < s.lutCount := Nat.lt_asymm hlt
  rw [writeLut, if_neg (not_not_intro rfl), if_neg (by simp [hidx]), if_neg hnotFull, if_neg hinside]

end

/-- Settles O22, clause by clause: sequencing, R69's three checks in their order, the append, and the words. -/
theorem lutWrAppendsEntry : Obligations.LutWrAppendsEntry := by
  intro len rgb w1 s
  refine ⟨fun hp hf => ?_, fun hp hlen => ?_, fun hp hlen hidx => ?_, fun hp hlen hidx hfull => ?_,
    fun hp hlen hidx hlt hm => ?_, fun w hw => ?_⟩
  · exact sequenced_rejected hf (Bool.eq_false_iff.mpr (mt accepts_lutWr_iff.mp hp))
  · rw [exec_lutWr_accepted hp, writeLut_badLength hlen]
  · rw [exec_lutWr_accepted hp, hlen]
    exact writeLut_badIndex hidx
  · rw [exec_lutWr_accepted hp, hlen]
    exact writeLut_full hidx hfull
  · have hentry := State.appendLut_lutAt_same (e := ⟨rgb, w1.setWidth 4⟩) hm
    refine ⟨s.appendLut ⟨rgb, w1.setWidth 4⟩, ?_, toNat_succ_of_lt hlt, ?_, ?_, ?_, rfl⟩
    · rw [exec_lutWr_accepted hp, hlen]
      exact writeLut_append hidx hlt
    · rw [hentry]
    · rw [hentry]
      exact (legal_stored hidx).2
    · exact fun k hk => State.appendLut_lutAt_other hk
  · have hopc : opcodeOf w = 2 := by rw [← opcodeOf_and_mask, hw]; rfl
    rw [decode_opcode_two hopc, lutWrOf_eq]

end Sys2Proof.Machine
end

section
/-! PROOFS. The image input's statements: the dimension check of every mode (O25), FILE_WR (O24) and HDR (O26). -/

namespace Sys2Proof

/-- Settles O25: each mode's sizes by its row of R72's table. -/
theorem dimensionCheck : Obligations.DimensionCheck := by
  intro m w h
  cases m <;> exact decide_eq_true_iff

/-! ### The words of FILE_WR and HDR (R57, R59, R61) -/

/-- Where the words with some OPC are one command's under `P` and R61's else, so is what they decode to. -/
theorem decode_ite_illegal {i : Instr} {w : Word} {P : Prop} [Decidable P] (hwf : i.wf = true)
    (hopc : Laws.Length.opcode i ≠ 2) (hword : P → i.firstWord = w) (hill : ¬ P → isIllegalWord w = true) :
    decode [w] = .ok (if P then i else .illegal w, []) := by
  by_cases hP : P
  · rw [if_pos hP]
    exact (decode_single_iff hwf hopc).mpr (hword hP)
  · have h2 : w.toNat / 2 ^ 28 ≠ 2 := mt Machine.opcodeOf_eq_two.mpr (opcodeOf_ne_two_of_illegal (hill hP))
    rw [if_neg hP, Machine.decode_one h2, decodeCommand_illegal (hill hP)]

/-- With OPC 4, R61's mask of FILE_WR's zero bits asks for R59's whole pattern above the byte. -/
theorem and_zeroBits_eq_zero_iff {w : Word} (h : w &&& 0xF0000000 = 0x40000000) :
    w &&& 0x0FFFFF00 = 0 ↔ w.toNat / 2 ^ 8 = 0x400000 := by
  have hrow : w &&& 0xFFFFFF00 = 0x40000000 ↔ w.toNat / 2 ^ 8 = 0x400000 := and_mask_eq_iff rfl rfl
  rw [← hrow]
  constructor
  · intro h0
    calc w &&& 0xFFFFFF00 = w &&& 0xF0000000 ||| w &&& 0x0FFFFF00 := by rw [← BitVec.and_or_distrib_left]; rfl
      _ = 0x40000000 := by rw [h, h0]; rfl
  · intro h1
    calc w &&& 0x0FFFFF00 = w &&& 0xFFFFFF00 &&& 0x0FFFFF00 := by rw [BitVec.and_assoc]; rfl
      _ = 0 := by rw [h1]; rfl

/-- A word with OPC 4 is FILE_WR's, or illegal where one of bits 27:8 is set (R57, R61). -/
theorem decode_opcode_four {w : Word} (h : w &&& 0xF0000000 = 0x40000000) :
    decode [w] = .ok (if w &&& 0x0FFFFF00 = 0 then .fileWr (BitVec.ofNat 8 w.toNat) else .illegal w, []) := by
  have hopc : w.toNat / 2 ^ 28 = 4 := (and_mask_eq_iff rfl rfl).mp h
  refine decode_ite_illegal rfl (by simp [Laws.Length.opcode]) (fun h0 => ?_) fun h0 => ?_ <;>
    rw [and_zeroBits_eq_zero_iff h] at h0
  · apply BitVec.eq_of_toNat_eq
    rw [fileWr_firstWord_toNat, BitVec.toNat_ofNat]
    omega
  · rw [isIllegalWord_iff]
    omega

/-- A word with OPC 5 is HDR's, or illegal where a lower bit is set (R57, R61). -/
theorem decode_opcode_five {w : Word} (h : w &&& 0xF0000000 = 0x50000000) :
    decode [w] = .ok (if w = 0x50000000 then .hdr else .illegal w, []) := by
  have hopc : w.toNat / 2 ^ 28 = 5 := (and_mask_eq_iff rfl rfl).mp h
  refine decode_ite_illegal rfl (by simp [Laws.Length.opcode]) Eq.symm fun hne => ?_
  have hnum : w.toNat ≠ 5 * 2 ^ 28 := fun h5 => hne (BitVec.eq_of_toNat_eq h5)
  rw [isIllegalWord_iff]
  omega

end Sys2Proof

namespace Sys2Proof.Machine

/-! ### FILE after FILE_WR's write (R39, R71) -/

theorem State.MemoryOk.file {s : State} (h : s.MemoryOk) : Store.wf Config.unlistedByte s.mem.file = true :=
  (Memory.wf_iff.mp h).1

theorem State.appendFile_fileAt_same {s : State} {b : Byte} (h : s.MemoryOk) :
    (s.appendFile b).fileAt s.fileLen.toNat = b :=
  Store.read_write_same h.file

theorem State.appendFile_fileAt_other {s : State} {b : Byte} {a : Nat} (ha : a ≠ s.fileLen.toNat) :
    (s.appendFile b).fileAt a = s.fileAt a :=
  Store.read_write_other ha

/-! ### FILE_WR's outcomes, one for each case of R71 -/

variable {s : State} {b : Byte}

theorem accepts_fileWr_iff : accepts (.fileWr b) s = true ↔ s.phase = .config ∨ s.phase = .lutDef := decide_eq_true_iff

/-- The phases of the image input are not phase FAULT. -/
theorem phase_ne_fault_of_input (hp : s.phase = .config ∨ s.phase = .lutDef) : s.phase ≠ .fault := by
  rcases hp with hp | hp <;> simp [hp]

/-- FILE_WR where its phase accepts it: R71's check and the append. -/
theorem exec_fileWr_accepted (hp : s.phase = .config ∨ s.phase = .lutDef) : exec (.fileWr b) s = writeFile b s :=
  sequenced_accepted (phase_ne_fault_of_input hp) (accepts_fileWr_iff.mpr hp)

theorem writeFile_full (hfull : s.fileLen = s.params.fileMax) :
    writeFile b s = .next (s.raise { code := .capacityExceeded, a := 1, b := clamp32 (s.fileLen.toNat + 1) }) :=
  if_pos hfull

theorem writeFile_append (hlt : s.fileLen.toNat < s.params.fileMax.toNat) :
    writeFile b s = .next (s.appendFile b) := by
  have hnotFull : s.fileLen ≠ s.params.fileMax := fun h => hlt.ne (congrArg BitVec.toNat h)
  have hinside : ¬ s.params.fileMax < s.fileLen := Nat.lt_asymm hlt
  rw [writeFile, if_neg hnotFull, if_neg hinside]

/-- Settles O24, clause by clause: sequencing, the full FILE, the append, and the words. -/
theorem fileWrAppendsByte : Obligations.FileWrAppendsByte := by
  intro b s
  refine ⟨fun hconfig hlutDef hf => ?_, fun hp hfull => ?_, fun hp hlt hm => ?_, fun w => decode_opcode_four⟩
  · exact sequenced_rejected hf (Bool.eq_false_iff.mpr (mt accepts_fileWr_iff.mp (not_or.mpr ⟨hconfig, hlutDef⟩)))
  · exact (exec_fileWr_accepted hp).trans (writeFile_full hfull)
  · exact ⟨s.appendFile b, (exec_fileWr_accepted hp).trans (writeFile_append hlt), toNat_succ_of_lt hlt,
      State.appendFile_fileAt_same hm, fun a ha => State.appendFile_fileAt_other ha, rfl⟩

/-! ### HDR's outcomes, one for each case of R73 -/

theorem accepts_hdr_iff : accepts .hdr s = true ↔ s.phase = .config ∨ s.phase = .lutDef := decide_eq_true_iff

/-- HDR where its phase accepts it: the header and R73's checks. -/
theorem exec_hdr_accepted (hp : s.phase = .config ∨ s.phase = .lutDef) : exec .hdr s = takeHeader s :=
  sequenced_accepted (phase_ne_fault_of_input hp) (accepts_hdr_iff.mpr hp)

theorem takeHeader_truncated (hlen : s.fileLen.toNat < 26) :
    takeHeader s = .next (s.raise { code := .truncatedHeader, a := s.fileLen }) :=
  if_pos hlen

theorem takeHeader_read (hlen : 26 ≤ s.fileLen.toNat) (hmax : s.fileLen.toNat ≤ s.params.fileMax.toNat) :
    takeHeader s = .next (checkHeader s.readHeader) := by
  rw [takeHeader, if_neg hlen.not_gt, if_neg (hlen.trans hmax).not_gt]

theorem checkHeader_badDims (hdims : dimsOk s.mode s.imageW s.signedHeight = false) :
    checkHeader s = s.raise { code := .invalidDimensions, a := s.width, b := s.height, c := 0, d := s.modeWord } :=
  if_pos hdims

section
variable (hdims : dimsOk s.mode s.imageW s.signedHeight = true)
include hdims

theorem checkHeader_tooLarge (hcount : s.params.idxMax.toNat < s.pixelCount) :
    checkHeader s = s.raise { code := .capacityExceeded, a := 2, b := clamp32 s.pixelCount } := by
  rw [checkHeader, if_neg (by simp [hdims]), if_pos hcount]

theorem checkHeader_accepted (hcount : s.pixelCount ≤ s.params.idxMax.toNat) :
    checkHeader s = { s with phase := .hdrOk } := by
  rw [checkHeader, if_neg (by simp [hdims]), if_neg hcount.not_gt]

end

/-- Settles O26, clause by clause: sequencing, the short file, the checks on the header read in their order, and the
word. -/
theorem hdrTakesHeader : Obligations.HdrTakesHeader := by
  intro s
  refine ⟨fun hconfig hlutDef hf => ?_, fun hp => ?_, fun w => decode_opcode_five⟩
  · exact sequenced_rejected hf (Bool.eq_false_iff.mpr (mt accepts_hdr_iff.mp (not_or.mpr ⟨hconfig, hlutDef⟩)))
  · rw [exec_hdr_accepted hp, ← State.readHeader_eq]
    refine ⟨takeHeader_truncated, fun hlen hmax => ?_⟩
    rw [takeHeader_read hlen hmax]
    exact ⟨fun hdims => congrArg _ (checkHeader_badDims hdims),
      fun hdims hcount => congrArg _ (checkHeader_tooLarge hdims hcount),
      fun hdims hcount => congrArg _ (checkHeader_accepted hdims hcount)⟩

end Sys2Proof.Machine
end

section
/-! PROOFS. The classifier's statements: the padding and stride of a stored row (O27), the physical row of a logical row (O28), and the table lookup (O29). -/

namespace Sys2Proof

/-! ### Rows of the stored image (R74, R75) -/

/-- R74's padding is the width modulo 4, since 3 is -1 modulo 4. -/
theorem rowPad_eq_mod (w : Nat) : rowPad w = w % 4 := by
  unfold rowPad
  omega

theorem rowStride_eq (w : Nat) : rowStride w = 3 * w + w % 4 := congrArg (3 * w + ·) (rowPad_eq_mod w)

/-- Settles O27: the formulas are the definitions, and by them the padding is the width modulo 4, from which the rest
follows. -/
theorem rowPaddingAndStride : Obligations.RowPaddingAndStride := by
  intro w
  have hpad := rowPad_eq_mod w
  have hstride := rowStride_eq w
  have hmultiple : rowStride w % 4 = 0 := by omega
  have hleast : rowStride w < 3 * w + 4 := by omega
  exact ⟨rfl, rfl, hmultiple, hleast, hpad.trans, hpad.trans, hpad.trans, hpad.trans⟩

theorem physicalRow_of_pos {h : Int} (hpos : 0 < h) (r : Nat) : physicalRow h r = h.natAbs - 1 - r := if_pos hpos

theorem physicalRow_of_not_pos {h : Int} (hpos : ¬ 0 < h) (r : Nat) : physicalRow h r = r := if_neg hpos

/-- Settles O28: a bottom-up image reverses its rows and a top-down one keeps them, and both maps are one to one. -/
theorem rowOrientation : Obligations.RowOrientation := by
  refine ⟨fun h r hpos => physicalRow_of_pos hpos r, fun h r hneg => physicalRow_of_not_pos hneg.not_gt r,
    fun h r r' hr hr' => ?_⟩
  by_cases hpos : 0 < h
  · rw [physicalRow_of_pos hpos, physicalRow_of_pos hpos]
    omega
  · rw [physicalRow_of_not_pos hpos, physicalRow_of_not_pos hpos]
    exact ⟨hr, id⟩

end Sys2Proof

namespace Sys2Proof.Machine

/-! ### The table lookup, one lemma for each case of R77 -/

section
variable {s : State} {rgb : Rgb} {i : Nat}

theorem State.lookupPixel_of_first {k : Nat} (hk : k < s.lutCount.toNat) (hrgb : (s.lutAt k).rgb = rgb)
    (hfirst : ∀ j < k, (s.lutAt j).rgb ≠ rgb) : s.lookupPixel rgb i = .ok (s.lutAt k).idx := by
  have hlen : k < s.table.length := by simpa [State.table] using hk
  have hentry : ∀ j (hj : j < s.table.length), s.table[j] = s.lutAt j := by simp [State.table]
  have hfound : lookupIn s.table rgb = some s.table[k].idx :=
    lookupIn_first hlen (by rw [hentry, hrgb]) (fun j hj => by rw [hentry]; exact hfirst j hj)
  rw [State.lookupPixel, hfound, hentry]

section
variable (hunlisted : ∀ k < s.lutCount.toNat, (s.lutAt k).rgb ≠ rgb)
include hunlisted

theorem State.lookupIn_table_of_unlisted : lookupIn s.table rgb = none :=
  lookupIn_none.mpr (by simpa [State.table] using hunlisted)

theorem State.lookupPixel_of_unlisted_screen0 (hmode : s.mode = .screen0) : s.lookupPixel rgb i = .ok 0 := by
  rw [State.lookupPixel, State.lookupIn_table_of_unlisted hunlisted]
  exact if_pos hmode

theorem State.lookupPixel_of_unlisted (hmode : s.mode ≠ .screen0) :
    s.lookupPixel rgb i = .error { code := .unmappedColor, a := rgb.setWidth 32, b := clamp32 i } := by
  rw [State.lookupPixel, State.lookupIn_table_of_unlisted hunlisted]
  exact if_neg hmode

end

end

/-- Settles O29, case by case; a pixel number under 2^32 is not clamped. -/
theorem lookupFirstMatch : Obligations.LookupFirstMatch := by
  intro s rgb i hi
  rw [← clamp32_of_lt hi]
  exact ⟨fun k hk hrgb hfirst => State.lookupPixel_of_first hk hrgb hfirst,
    fun hunlisted => ⟨State.lookupPixel_of_unlisted_screen0 hunlisted, State.lookupPixel_of_unlisted hunlisted⟩⟩

end Sys2Proof.Machine
end

section
/-! PROOFS. The tile, sprite and SIF encoders' statements: TILE1 (O32), TILE2 (O33, O34, O35), PLANE (O36), the second colour of a sprite (O40) and of a block row (O42), and SIF (O44). -/

namespace Sys2Proof.Machine

/-! ### Rows of numbers and the checking loops over them (R18) -/

/-- The `r`-th of the values of `0 .. n-1`. -/
theorem getD_map_range {α : Type} (f : Nat → α) (d : α) {n r : Nat} (hr : r < n) :
    ((List.range n).map f).getD r d = f r := by
  simp [hr]

/-- The numbers from `a` up, with one of them apart. -/
theorem range'_eq_append_cons {a n i : Nat} (hi : i < n) :
    ∃ post, List.range' a n = List.range' a i ++ (a + i) :: post := by
  obtain ⟨m, rfl⟩ := Nat.exists_eq_add_of_lt hi
  exact ⟨List.range' (a + i + 1) m, by rw [Nat.add_assoc, ← List.range'_append_1, List.range'_succ]⟩

/-- A `tryFold` over a mapped list. -/
theorem tryFold_map {α β σ ε : Type} {f : σ → α → Except ε σ} {g : σ → β → Except ε σ} {h : α → β} :
    ∀ {xs : List α} (s : σ), (∀ x ∈ xs, ∀ s, g s (h x) = f s x) → tryFold g s (xs.map h) = tryFold f s xs
  | [], _, _ => rfl
  | x :: xs, s, hfg => by
    simp only [List.map_cons, tryFold, hfg x List.mem_cons_self]
    split
    next => rfl
    next => exact tryFold_map _ fun y hy => hfg y (List.mem_cons_of_mem _ hy)

theorem tryMap_map {α β γ ε : Type} {f : β → Except ε γ} {h : α → β} : ∀ (xs : List α),
    tryMap f (xs.map h) = tryMap (f ∘ h) xs
  | [] => rfl
  | x :: xs => by simp only [List.map_cons, tryMap, tryMap_map xs, Function.comp_apply]

theorem tryFold_singleton {α σ ε : Type} (f : σ → α → Except ε σ) (s : σ) (x : α) : tryFold f s [x] = f s x := by
  simp only [tryFold]
  cases f s x <;> rfl

/-! ### What ENCODE is ready for (R25, R72, R79) -/

section
variable {s : State} {fmt : Format} {mode : Mode}

theorem State.EncodeReady.fmt_eq (h : s.EncodeReady fmt mode) : s.fmt = fmt := h.2.1

theorem State.EncodeReady.mode_eq (h : s.EncodeReady fmt mode) : s.mode = mode := h.2.2.1

theorem State.EncodeReady.dims (h : s.EncodeReady fmt mode) : dimsOk mode s.imageW s.signedHeight = true := h.2.2.2.1

/-- A TILE1 image is at most 8 wide and is 8 high (R72). -/
theorem State.EncodeReady.dims_tile1 (h : s.EncodeReady fmt mode) (hmode : mode = .screen0 ∨ mode = .screen1) :
    s.imageW ≤ 8 ∧ s.imageH = 8 := by
  have hd := h.dims
  obtain rfl | rfl := hmode <;> simp only [dimsOk, decide_eq_true_eq] at hd
  · exact ⟨hd.1.trans_le (by decide), hd.2⟩
  · exact ⟨hd.1.le, hd.2⟩

/-- A PLANE image is 8 wide (R72). -/
theorem State.EncodeReady.imageW_plane (h : s.EncodeReady fmt .screen3) : s.imageW = 8 :=
  (decide_eq_true_iff.mp h.dims).1

/-- A sprite has at most 32 block rows (R72, R88). -/
theorem State.EncodeReady.blockRowCount_le (h : s.EncodeReady fmt mode) (hmode : mode = .sprite1 ∨ mode = .spritelc) :
    s.blockRowCount ≤ 32 := by
  have hd : (s.imageW = 8 ∧ s.imageH = 8) ∨ (s.imageW = 16 ∧ s.imageH = 16) := by
    obtain rfl | rfl := hmode <;> exact decide_eq_true_iff.mp h.dims
  unfold State.blockRowCount
  obtain ⟨hw, hh⟩ | ⟨hw, hh⟩ := hd <;> simp [hw, hh]

/-- TILE1 is the encoder of SCREEN0 and SCREEN1 (R79). -/
theorem State.EncodeReady.encoded_tile1 (h : s.EncodeReady .asm mode) (hmode : mode = .screen0 ∨ mode = .screen1) :
    s.encoded = .ok ⟨tile1 s.idxAt s.imageW s.imageH, false⟩ := by
  obtain rfl | rfl := hmode <;> simp only [State.encoded, h.fmt_eq, h.mode_eq]

theorem State.EncodeReady.encoded_tile2 (h : s.EncodeReady .asm .tile2lc) :
    s.encoded = plainOutput (tile2 s.idxAt s.imageW) := by
  simp only [State.encoded, h.fmt_eq, h.mode_eq]

theorem State.EncodeReady.encoded_plane (h : s.EncodeReady .asm .screen3) :
    s.encoded = .ok ⟨plane s.idxAt s.imageW, false⟩ := by
  simp only [State.encoded, h.fmt_eq, h.mode_eq]

theorem State.EncodeReady.encoded_sprSingle (h : s.EncodeReady .asm .sprite1) :
    s.encoded = sprSingle s.idxAt s.imageW s.imageH := by
  simp only [State.encoded, h.fmt_eq, h.mode_eq]

theorem State.EncodeReady.encoded_sprLine (h : s.EncodeReady .asm .spritelc) :
    s.encoded = sprLine s.params.spritePost s.idxAt s.imageW s.imageH := by
  simp only [State.encoded, h.fmt_eq, h.mode_eq]

theorem State.EncodeReady.encoded_sif (h : s.EncodeReady .sif mode) :
    s.encoded = plainOutput (sif s.width s.height mode s.idxAt s.imageW s.imageH) := by
  simp only [State.encoded, h.fmt_eq, h.mode_eq]

end

/-! ### Two indices in a byte -/

theorem nibblePair_toNat (hi lo : Nibble) : (nibblePair hi lo).toNat = hi.toNat * 16 + lo.toNat := toNat_joined hi lo

theorem nibblePair_eq_ofNat (hi lo : Nibble) : nibblePair hi lo = BitVec.ofNat 8 (hi.toNat * 16 + lo.toNat) := by
  rw [← nibblePair_toNat, BitVec.ofNat_toNat, BitVec.setWidth_eq]

/-- A colour pair as a FAULT_INFO word (R89, R90). -/
theorem nibblePair_setWidth (hi lo : Nibble) :
    (nibblePair hi lo).setWidth 32 = BitVec.ofNat 32 (hi.toNat * 16 + lo.toNat) := by
  rw [← nibblePair_toNat, BitVec.ofNat_toNat]

@[simp] theorem nibblePair_low (hi lo : Nibble) : (nibblePair hi lo).extractLsb' 0 4 = lo := by
  apply BitVec.eq_of_toNat_eq
  have := lo.isLt
  rw [BitVec.extractLsb'_toNat, nibblePair_toNat]
  omega

@[simp] theorem nibblePair_high (hi lo : Nibble) : (nibblePair hi lo).extractLsb' 4 4 = hi := by
  apply BitVec.eq_of_toNat_eq
  have := hi.isLt
  have := lo.isLt
  rw [BitVec.extractLsb'_toNat, nibblePair_toNat, Nat.shiftRight_eq_div_pow]
  omega

/-! ### TILE1 (R81) -/

/-- A shifted index of 0 or 1 sets at most the bit of its own column. -/
theorem shifted_index_bit {v : Nibble} (hv : v = 0 ∨ v = 1) {x c : Nat} (hx : x < 8) (hc : c < 8) :
    ((v.setWidth 8) <<< (7 - x) : Byte).getLsbD (7 - c) = (decide (x = c) && decide (v = 1)) := by
  obtain rfl | rfl := hv
  · simp
  · have hone : (1 : Nibble).setWidth 8 = 1#8 := rfl
    rw [hone, BitVec.getLsbD_shiftLeft, BitVec.getLsbD_one, Bool.eq_iff_iff]
    simp only [decide_true, Bool.and_true, Bool.and_eq_true, Bool.not_eq_true', decide_eq_true_eq,
      decide_eq_false_iff_not]
    omega

/-- The bits of a TILE1 row of indices 0 and 1. -/
theorem tile1Row_bit {ix : Nat → Nibble} {w r c : Nat} (hw : w ≤ 8) (hc : c < 8)
    (hix : ∀ x < w, ix (r * w + x) = 0 ∨ ix (r * w + x) = 1) :
    (tile1Row ix w r).getLsbD (7 - c) = (decide (c < w) && decide (ix (r * w + c) = 1)) := by
  have hbit : ∀ x < w, ((ix (r * w + x)).setWidth 8 <<< (7 - x) : Byte).getLsbD (7 - c)
      = (decide (x = c) && decide (ix (r * w + x) = 1)) := fun x hx =>
    shifted_index_bit (hix x hx) (hx.trans_le hw) hc
  rw [tile1Row, foldl_or_bit (fun x => (ix (r * w + x)).setWidth 8 <<< (7 - x)), Bool.eq_iff_iff]
  simp only [BitVec.ofNat_eq_ofNat, BitVec.getLsbD_zero, Bool.false_or, List.any_eq_true, List.mem_range,
    Bool.and_eq_true, decide_eq_true_eq]
  constructor
  · rintro ⟨x, hx, h⟩
    rw [hbit x hx, Bool.and_eq_true, decide_eq_true_eq, decide_eq_true_eq] at h
    obtain ⟨rfl, h1⟩ := h
    exact ⟨hx, h1⟩
  · rintro ⟨hx, h1⟩
    exact ⟨c, hx, by rw [hbit c hx, h1]; simp⟩

/-- Settles O32: a row's byte ORs the shifted indices of its columns, one bit each. -/
theorem encodeTile1 : Obligations.EncodeTile1 := by
  intro s mode hmode hr hix hmax
  obtain ⟨hw, hh⟩ := hr.dims_tile1 hmode
  have hrow : ∀ r < 8, ∀ c < s.imageW, s.idxAt (r * s.imageW + c) = 0 ∨ s.idxAt (r * s.imageW + c) = 1 := by
    intro r hr8 c hc
    refine hix _ ?_
    calc r * s.imageW + c < (r + 1) * s.imageW := by rw [Nat.succ_mul]; omega
      _ ≤ 8 * s.imageW := Nat.mul_le_mul_right _ hr8
      _ = s.pixelCount := by rw [State.pixelCount, hh, Nat.mul_comm]
  have htokens : tile1 s.idxAt s.imageW s.imageH
      = .sect .main :: ((List.range 8).map (tile1Row s.idxAt s.imageW)).map Token.data := by
    rw [tile1, hh, List.map_map]
    rfl
  refine ⟨(List.range 8).map (tile1Row s.idxAt s.imageW), ?_, by simp, fun r hr8 c hc => ?_⟩
  · have hout := exec_encode_ok hr (hr.encoded_tile1 hmode) (by simpa [htokens] using hmax)
    rwa [htokens] at hout
  · rw [getD_map_range _ _ hr8, tile1Row_bit hw hc (hrow r hr8)]
    rfl

/-! ### PLANE (R84) -/

/-- Settles O36: an image of SCREEN3 is 8 wide, so the samples of PLANE's second byte are at 32 and 36. -/
theorem encodePlane : Obligations.EncodePlane := by
  intro s hr hmax
  have hout := exec_encode_ok hr hr.encoded_plane hmax
  simpa only [plane, hr.imageW_plane, nibblePair_eq_ofNat] using hout

/-! ### The check of a TILE2 row (R82) -/

section
variable {ix : Nat → Nibble} {w r : Nat}

/-- Indices already met add nothing. -/
theorem scanTwoColors_of_mem {seen : List Nibble} : ∀ {cs : List Nat}, (∀ c ∈ cs, ix (r * w + c) ∈ seen) →
    scanTwoColors ix w r cs seen = .ok seen
  | [], _ => rfl
  | c :: cs, h => by
    rw [scanTwoColors, if_pos (h c List.mem_cons_self),
      scanTwoColors_of_mem (fun x hx => h x (List.mem_cons_of_mem _ hx))]

/-- After one index, the second is added where it is first met. -/
theorem scanTwoColors_second {a b : Nibble} (hab : b ≠ a) : ∀ {cs : List Nat},
    (∀ c ∈ cs, ix (r * w + c) = a ∨ ix (r * w + c) = b) → (∃ c ∈ cs, ix (r * w + c) = b) →
    scanTwoColors ix w r cs [a] = .ok [a, b]
  | [], _, hb => by simp at hb
  | c :: cs, h, hb => by
    obtain ⟨hc, hcs⟩ := List.forall_mem_cons.mp h
    obtain ha | hb' := hc
    · have hrest : ∃ x ∈ cs, ix (r * w + x) = b := by simpa [ha, hab.symm] using hb
      rw [scanTwoColors, if_pos (by simp [ha]), scanTwoColors_second hab hcs hrest]
    · rw [scanTwoColors, if_neg (by simp [hb', hab]), if_neg (by simp), hb']
      exact scanTwoColors_of_mem (fun x hx => by simpa using hcs x hx)

/-- What follows a part of a row that passes its check is checked against the indices that part has. -/
theorem scanTwoColors_append {seen' ds} : ∀ {cs : List Nat} {seen : List Nibble},
    scanTwoColors ix w r cs seen = .ok seen' →
    scanTwoColors ix w r (cs ++ ds) seen = scanTwoColors ix w r ds seen'
  | [], seen, h => by
    obtain rfl : seen = seen' := by simpa [scanTwoColors] using h
    rfl
  | c :: cs, seen, h => by
    rw [List.cons_append]
    simp only [scanTwoColors] at h ⊢
    split at h
    next hm => rw [if_pos hm, scanTwoColors_append h]
    next hm =>
      split at h
      next => cases h
      next hlen => rw [if_neg hm, if_neg hlen, scanTwoColors_append h]

/-- A row starts with its first index. -/
theorem scanTwoColors_range {n : Nat} (hn : 0 < n) :
    scanTwoColors ix w r (List.range n) [] = scanTwoColors ix w r (List.range' 1 (n - 1)) [ix (r * w + 0)] := by
  obtain ⟨m, rfl⟩ : ∃ m, n = m + 1 := ⟨n - 1, by omega⟩
  simp [List.range_eq_range', List.range'_succ, scanTwoColors]

theorem scanTwoColors_one {n : Nat} (hn : 0 < n) (h : ∀ c < n, ix (r * w + c) = ix (r * w + 0)) :
    scanTwoColors ix w r (List.range n) [] = .ok [ix (r * w + 0)] := by
  rw [scanTwoColors_range hn]
  refine scanTwoColors_of_mem fun c hc => ?_
  rw [List.mem_range'_1] at hc
  simp [h c (by omega)]

theorem scanTwoColors_two {n : Nat} {b : Nibble} (hb : b ≠ ix (r * w + 0))
    (h : ∀ c < n, ix (r * w + c) = ix (r * w + 0) ∨ ix (r * w + c) = b) (hex : ∃ c < n, ix (r * w + c) = b) :
    scanTwoColors ix w r (List.range n) [] = .ok [ix (r * w + 0), b] := by
  obtain ⟨d, hd, hdb⟩ := hex
  have hd0 : d ≠ 0 := by
    rintro rfl
    exact hb hdb.symm
  rw [scanTwoColors_range (by omega)]
  refine scanTwoColors_second hb (fun c hc => h c ?_) ⟨d, ?_, hdb⟩
  · rw [List.mem_range'_1] at hc
    omega
  · rw [List.mem_range'_1]
    omega

/-- The third index of a row, at the first pixel that has one (R82). -/
theorem scanTwoColors_third {c : Nat} {b : Nibble} (hc : c < 8) (hb : b ≠ ix (r * w + 0))
    (h : ∀ x < c, ix (r * w + x) = ix (r * w + 0) ∨ ix (r * w + x) = b) (hex : ∃ x < c, ix (r * w + x) = b)
    (hc0 : ix (r * w + c) ≠ ix (r * w + 0)) (hcb : ix (r * w + c) ≠ b) :
    scanTwoColors ix w r (List.range 8) []
      = .error ⟨.tooManyColorsPerLine, clamp32 r, clamp32 c, (ix (r * w + c)).setWidth 32, 0⟩ := by
  have hmet := scanTwoColors_two hb h hex
  obtain ⟨post, hsplit⟩ := range'_eq_append_cons (a := 0) hc
  rw [← List.range_eq_range', ← List.range_eq_range', Nat.zero_add] at hsplit
  rw [hsplit, scanTwoColors_append hmet, scanTwoColors,
    if_neg (mt List.mem_pair.mp (not_or.mpr ⟨hc0, hcb⟩))]
  exact if_pos rfl

end

/-! ### The bytes of a TILE2 row (R82, R83) -/

/-- The bitmap and colour bytes say which pixels `px` of a row differ from its first and what the two indices are, 0 for the
second where there is none (R82). -/
structure PacksRow (px : Nat → Nibble) (bitmap colour : Byte) : Prop where
  bit : ∀ c < 8, bitmap.getLsbD (7 - c) = decide (px c ≠ px 0)
  first : colour.extractLsb' 0 4 = px 0
  second : ∀ c < 8, px c ≠ px 0 → colour.extractLsb' 4 4 = px c
  noSecond : (∀ c < 8, px c = px 0) → colour.extractLsb' 4 4 = 0

/-- A row of at most two indices has one index, or its first and another (R82). -/
theorem one_or_two_of_pair {px : Nat → Nibble} {n : Nat} (hn : 0 < n) {a b : Nibble}
    (h : ∀ c < n, px c = a ∨ px c = b) :
    (∀ c < n, px c = px 0) ∨
      ∃ second, second ≠ px 0 ∧ (∀ c < n, px c = px 0 ∨ px c = second) ∧ ∃ c < n, px c = second := by
  by_cases hall : ∀ c < n, px c = px 0
  · exact .inl hall
  · push Not at hall
    obtain ⟨d, hd, hne⟩ := hall
    refine .inr ⟨px d, hne, fun c hc => ?_, d, hd, rfl⟩
    have h0 := h 0 hn
    have hd := h d hd
    have hc := h c hc
    grind

/-- A row of at most two indices passes TILE2's check and is packed. -/
theorem tile2Row_packs {ix : Nat → Nibble} {w r : Nat}
    (h : ∃ a b, ∀ c < 8, ix (r * w + c) = a ∨ ix (r * w + c) = b) :
    ∃ p, tile2Row ix w r = .ok p ∧ PacksRow (fun c => ix (r * w + c)) p.1 p.2 := by
  obtain ⟨a, b, hab⟩ := h
  obtain hone | ⟨second, hne, htwo, hex⟩ := one_or_two_of_pair (px := fun c => ix (r * w + c)) (by decide) hab
  · refine ⟨(0, nibblePair 0 (ix (r * w + 0))),
      by simp only [tile2Row, scanTwoColors_one (by decide) hone, tile2Bytes], ?_⟩
    exact {
      bit := fun c hc => by simp [hone c hc]
      first := nibblePair_low _ _
      second := fun c hc hdiff => absurd (hone c hc) hdiff
      noSecond := fun _ => nibblePair_high _ _ }
  · refine ⟨(maskByte (fun c => ix (r * w + c) == second), nibblePair second (ix (r * w + 0))),
      by simp only [tile2Row, scanTwoColors_two hne htwo hex, tile2Bytes], ?_⟩
    exact {
      bit := fun c hc => by
        rw [maskByte_bit _ hc, Bool.eq_iff_iff, beq_iff_eq, decide_eq_true_iff]
        exact ⟨fun h => h.trans_ne hne, (htwo c hc).resolve_left⟩
      first := nibblePair_low _ _
      second := fun c hc hdiff => (nibblePair_high _ _).trans ((htwo c hc).resolve_left hdiff).symm
      noSecond := fun hall => by
        obtain ⟨c, hc, hsecond⟩ := hex
        exact absurd (hsecond.symm.trans (hall c hc)) hne }

/-- Settles O35: a set bit marks a pixel that differs from the row's first, and then the high nibble is its index. -/
theorem tile2RoundTrip : Obligations.Tile2RoundTrip := by
  intro ix w r h
  obtain ⟨⟨bitmap, colour⟩, hrow, hpack⟩ := tile2Row_packs h
  refine ⟨bitmap, colour, hrow, fun c hc => ?_⟩
  rw [hpack.bit c hc]
  split
  next hdiff => exact (hpack.second c hc (of_decide_eq_true hdiff)).symm
  next hsame => exact (not_not.mp (mt decide_eq_true hsame)).trans hpack.first.symm

/-- Settles O33: every row passes its check and is packed. -/
theorem encodeTile2 : Obligations.EncodeTile2 := by
  intro s hr hrows hmax
  choose! p hrow hpack using fun r (hr8 : r < 8) => tile2Row_packs (hrows r hr8)
  have hall : tryMap (tile2Row s.idxAt s.imageW) (List.range 8) = .ok ((List.range 8).map p) :=
    tryMap_ok fun r hr8 => hrow r (List.mem_range.mp hr8)
  refine ⟨(List.range 8).map (fun r => (p r).1), (List.range 8).map (fun r => (p r).2), ?_, by simp, by simp,
    fun r hr8 => ?_⟩
  · have he : s.encoded = .ok ⟨.sect .main :: ((List.range 8).map (fun r => (p r).1)).map Token.data
        ++ .sect .colors :: ((List.range 8).map (fun r => (p r).2)).map Token.data, false⟩ := by
      rw [hr.encoded_tile2, tile2, hall]
      simp only [plainOutput, List.map_map]
      rfl
    exact exec_encode_ok hr he (by simpa using hmax)
  · rw [getD_map_range _ _ hr8, getD_map_range _ _ hr8]
    obtain ⟨hbit, hfirst, hsecond, hnone⟩ := hpack r hr8
    exact ⟨hbit, hfirst, hsecond, hnone⟩

/-- Settles O34: the rows before pass their checks, and the pixel's index is neither of the two its row has met. -/
theorem tile2ThirdColorFaults : Obligations.Tile2ThirdColorFaults := by
  intro s r c hr hr8 hc8 hbefore ⟨a, b, hab, hpair, ha, hb, hca, hcb⟩
  have hc0 : 0 < c := by
    obtain ⟨x, hx, -⟩ := ha
    omega
  have hscan : scanTwoColors s.idxAt s.imageW r (List.range 8) []
      = .error ⟨.tooManyColorsPerLine, clamp32 r, clamp32 c, (s.pixel r c).setWidth 32, 0⟩ := by
    obtain rfl | rfl := hpair 0 hc0
    · exact scanTwoColors_third hc8 hab.symm hpair hb hca hcb
    · exact scanTwoColors_third hc8 hab (fun x hx => (hpair x hx).symm) ha hcb hca
  have hrow : tile2Row s.idxAt s.imageW r
      = .error ⟨.tooManyColorsPerLine, clamp32 r, clamp32 c, (s.pixel r c).setWidth 32, 0⟩ := by
    rw [tile2Row, hscan]
  have hrows : tryMap (tile2Row s.idxAt s.imageW) (List.range 8) = .error _ :=
    tryMap_range_error hr8 (fun x hx => have ⟨p, hp, _⟩ := tile2Row_packs (hbefore x hx); ⟨p, hp⟩) hrow
  rw [exec_encode_error hr (by rw [hr.encoded_tile2, tile2, hrows]; rfl), clamp32_of_lt (by omega),
    clamp32_of_lt (by omega)]

/-! ### One-colour checks over the sprite pixels in visiting order (R88 to R90) -/

/-- The one-colour check of the pixel visited `p`-th: block `p / 64`, row `p mod 64 / 8`, column `p mod 8` (R88). -/
def State.trackVisited (s : State) (code : FaultCode) (g : Option Nibble) (p : Nat) : Except Trap (Option Nibble) :=
  trackColor code s.idxAt s.imageW (p / 64, p % 64 / 8) g (p % 8)

/-- The block, the row in it and the column of pixel `k` of block row `q`, from its place in visiting order (R88). -/
theorem visiting_number (q : Nat) {k : Nat} (hk : k < 8) :
    (8 * q + k) / 64 = q / 8 ∧ (8 * q + k) % 64 / 8 = q % 8 ∧ (8 * q + k) % 8 = k := by
  omega

section
variable {s : State} {code : FaultCode}

/-- The check of block row `q` visits the pixels from `8 * q` up. -/
theorem State.trackRow_eq (g : Option Nibble) (q : Nat) :
    trackRow code s.idxAt s.imageW g (q / 8, q % 8) = tryFold (s.trackVisited code) g (List.range' (8 * q) 8) := by
  rw [List.range'_eq_map_range]
  refine (tryFold_map g fun k hk g => ?_).symm
  obtain ⟨hblock, hline, hcolumn⟩ := visiting_number q (List.mem_range.mp hk)
  rw [State.trackVisited, hblock, hline, hcolumn]

/-- The check of the first `n` block rows visits the first `8 * n` pixels. -/
theorem State.tryFold_trackRow (n : Nat) :
    tryFold (trackRow code s.idxAt s.imageW) none ((List.range n).map (fun q => (q / 8, q % 8)))
      = tryFold (s.trackVisited code) none (List.range' 0 (8 * n)) := by
  induction n with
  | zero => rfl
  | succ n ih =>
    rw [Nat.mul_succ, ← List.range'_append_1, List.range_succ, List.map_append, tryFold_append, tryFold_append, ih,
      Nat.zero_add]
    split
    next => rfl
    next g _ => rw [List.map_singleton, tryFold_singleton, State.trackRow_eq]

/-- A zero pixel changes nothing. -/
theorem State.trackVisited_zero {p : Nat} (h : s.visited p = 0) (g : Option Nibble) :
    s.trackVisited code g p = .ok g := if_pos h

/-- The first non-zero pixel sets the colour. -/
theorem State.trackVisited_first {p : Nat} (h : s.visited p ≠ 0) :
    s.trackVisited code none p = .ok (some (s.visited p)) := if_neg h

/-- A pixel of the colour met changes nothing. -/
theorem State.trackVisited_same {p : Nat} : s.trackVisited code (some (s.visited p)) p = .ok (some (s.visited p)) := by
  by_cases h : s.visited p = 0
  · exact State.trackVisited_zero h _
  · exact (if_neg h).trans (if_pos rfl)

/-- A pixel of a second colour faults. -/
theorem State.trackVisited_other {p : Nat} {c : Nibble} (h : s.visited p ≠ 0) (hc : s.visited p ≠ c) :
    s.trackVisited code (some c) p = .error ⟨code, clamp32 (p / 64), clamp32 (p % 64 / 8), clamp32 (p % 8),
      (nibblePair c (s.visited p)).setWidth 32⟩ := (if_neg h).trans (if_neg hc)

/-- Over zero pixels the check keeps what it has. -/
theorem State.tryFold_trackVisited_zero {g : Option Nibble} : ∀ {ps : List Nat}, (∀ p ∈ ps, s.visited p = 0) →
    tryFold (s.trackVisited code) g ps = .ok g
  | [], _ => rfl
  | p :: ps, h => by
    obtain ⟨hp, hps⟩ := List.forall_mem_cons.mp h
    simp only [tryFold, State.trackVisited_zero hp, State.tryFold_trackVisited_zero hps]

/-- Over zero pixels and pixels of the colour met the check keeps the colour. -/
theorem State.tryFold_trackVisited_same {c : Nibble} : ∀ {ps : List Nat},
    (∀ p ∈ ps, s.visited p = 0 ∨ s.visited p = c) → tryFold (s.trackVisited code) (some c) ps = .ok (some c)
  | [], _ => rfl
  | p :: ps, h => by
    obtain ⟨hp, hps⟩ := List.forall_mem_cons.mp h
    have hstep : s.trackVisited code (some c) p = .ok (some c) := by
      obtain h0 | rfl := hp
      · exact State.trackVisited_zero h0 _
      · exact State.trackVisited_same
    simp only [tryFold, hstep, State.tryFold_trackVisited_same hps]

/-- Over pixels of one colour, some of them of it, the check finds the colour. -/
theorem State.tryFold_trackVisited_one {c : Nibble} (hc : c ≠ 0) : ∀ {ps : List Nat},
    (∀ p ∈ ps, s.visited p = 0 ∨ s.visited p = c) → (∃ p ∈ ps, s.visited p = c) →
    tryFold (s.trackVisited code) none ps = .ok (some c)
  | [], _, hex => by simp at hex
  | p :: ps, h, hex => by
    obtain ⟨hp, hps⟩ := List.forall_mem_cons.mp h
    obtain h0 | rfl := hp
    · have hrest := ((List.exists_mem_cons_iff _ _ _).mp hex).resolve_left (fun hpc => hc (hpc.symm.trans h0))
      simp only [tryFold, State.trackVisited_zero h0, State.tryFold_trackVisited_one hc hps hrest]
    · simp only [tryFold, State.trackVisited_first hc, State.tryFold_trackVisited_same hps]

/-- The check of the pixels from `a` up faults at the first that has a second colour (R89, R90). -/
theorem State.OneColorBefore.fault {a n i : Nat} {c : Nibble} (h : s.OneColorBefore a (a + i) c) (hi : i < n)
    (h0 : s.visited (a + i) ≠ 0) (hc : s.visited (a + i) ≠ c) :
    tryFold (s.trackVisited code) none (List.range' a n)
      = .error ⟨code, clamp32 ((a + i) / 64), clamp32 ((a + i) % 64 / 8), clamp32 ((a + i) % 8),
          (nibblePair c (s.visited (a + i))).setWidth 32⟩ := by
  obtain ⟨hne, hpre, p, hap, hpi, hpc⟩ := h
  have hmet : tryFold (s.trackVisited code) none (List.range' a i) = .ok (some c) :=
    State.tryFold_trackVisited_one hne (fun p hp => hpre p (List.mem_range'_1.mp hp).1 (List.mem_range'_1.mp hp).2)
      ⟨p, List.mem_range'_1.mpr ⟨hap, hpi⟩, hpc⟩
  obtain ⟨post, hsplit⟩ := range'_eq_append_cons (a := a) hi
  simp only [hsplit, tryFold_append, hmet, tryFold, State.trackVisited_other h0 hc]

/-- A block row with one colour passes its check, and that is its colour (R90). -/
theorem State.IsLineColor.lineColor_eq {q : Nat} {c : Nibble} (h : s.IsLineColor q c) :
    lineColor s.idxAt s.imageW (q / 8, q % 8) = .ok c := by
  obtain ⟨hall, hex⟩ := h
  have hrow : ∀ p ∈ List.range' (8 * q) 8, s.visited p = 0 ∨ s.visited p = c := by
    intro p hp
    obtain ⟨k, hk, rfl⟩ := List.mem_range'.mp hp
    simpa using hall k hk
  rw [lineColor, State.trackRow_eq]
  by_cases hc : c = 0
  · rw [State.tryFold_trackVisited_zero (fun p hp => (hrow p hp).elim id (·.trans hc)), hc]
    rfl
  · obtain ⟨k, hk, hkc⟩ := hex hc
    rw [State.tryFold_trackVisited_one hc hrow ⟨8 * q + k, by simpa using hk, hkc⟩]
    rfl

end

/-- Settles O40: the check over the whole sprite faults at this pixel. -/
theorem spriteSecondColorFaults : Obligations.SpriteSecondColorFaults := by
  intro s p g hr hp hone h0 hg
  have hcount := hr.blockRowCount_le (.inl rfl)
  have hfault : s.encoded = .error ⟨.multipleSpriteColors, clamp32 (p / 64), clamp32 (p % 64 / 8), clamp32 (p % 8),
      (nibblePair g (s.visited p)).setWidth 32⟩ := by
    rw [← Nat.zero_add p] at hone h0 hg
    have htrack := hone.fault (code := .multipleSpriteColors) hp h0 hg
    rw [← State.tryFold_trackRow, State.blockRowCount, ← blockCount, ← blockRows_eq] at htrack
    simp only [hr.encoded_sprSingle, sprSingle, htrack, Nat.zero_add]
  rw [exec_encode_error hr hfault, clamp32_of_lt (by omega), clamp32_of_lt (by omega), clamp32_of_lt (by omega),
    nibblePair_setWidth]

/-- Settles O42: the block rows before pass their checks, and this one's faults at this pixel. -/
theorem lineSecondColorFaults : Obligations.LineSecondColorFaults := by
  intro s q k c hr hq hk hbefore hone h0 hc
  have hcount := hr.blockRowCount_le (.inr rfl)
  have hrow : lineColor s.idxAt s.imageW (q / 8, q % 8) = .error ⟨.multipleColorsPerLine, clamp32 (q / 8),
      clamp32 (q % 8), clamp32 k, (nibblePair c (s.visited (8 * q + k))).setWidth 32⟩ := by
    obtain ⟨hblock, hline, hcolumn⟩ := visiting_number q hk
    simp only [lineColor, State.trackRow_eq, hone.fault hk h0 hc, hblock, hline, hcolumn]
  have hrows := tryMap_range_error (f := lineColor s.idxAt s.imageW ∘ fun q => (q / 8, q % 8)) hq
    (fun x hx => have ⟨c', h⟩ := hbefore x hx; ⟨c', h.lineColor_eq⟩) hrow
  rw [← tryMap_map, State.blockRowCount, ← blockCount, ← blockRows_eq] at hrows
  rw [exec_encode_error hr (by rw [hr.encoded_sprLine, sprLine, hrows]), clamp32_of_lt (by omega),
    clamp32_of_lt (by omega), clamp32_of_lt (by omega), nibblePair_setWidth]

/-! ### SIF (R92, R93) -/

/-- A byte drops what is past 8 bits, so a 16-bit field's low byte needs no reduction (R92). -/
theorem le16_eq (v : Nat) : le16 v = [BitVec.ofNat 8 v, BitVec.ofNat 8 (v / 256)] := by
  have hlow : BitVec.ofNat 8 (v % 256) = BitVec.ofNat 8 v := BitVec.eq_of_toNat_eq (by simp)
  rw [le16, hlow]

theorem State.sifHeader_eq (s : State) : sifHeader s.imageW s.imageH = s.sifHeaderBytes := by
  simp only [sifHeader, le16_eq]
  rfl

/-- The byte of samples `2 * q` and `2 * q + 1` of row `r`, 0 for a sample past the row's end (R86, R93). -/
def State.pairByte (s : State) (r q : Nat) : Byte :=
  nibblePair (s.pixel r (2 * q)) (if 2 * q + 1 < s.imageW then s.pixel r (2 * q + 1) else 0)

theorem State.pairedRow_eq (s : State) (r : Nat) :
    s.pairedRow r = (List.range' 0 ((s.imageW + 1) / 2)).map (s.pairByte r) := by
  rw [← List.range_eq_range']
  rfl

theorem State.pairedRow_length (s : State) (r : Nat) : (s.pairedRow r).length = (s.imageW + 1) / 2 := by
  simp [State.pairedRow]

section
variable {s : State} (hw : 2 ≤ s.imageW)
include hw

/-- One byte of SifBody: two samples of a row, or the last sample of a row of odd width (R93). -/
theorem State.sifFrom_pair {n r q fuel : Nat} {bytes : List Byte} (hrow : (r + 1) * s.imageW ≤ n)
    (hq : 2 * q < s.imageW)
    (hnext : sifFrom s.idxAt s.imageW n fuel (r * s.imageW + min (2 * (q + 1)) s.imageW) = .ok bytes) :
    sifFrom s.idxAt s.imageW n (fuel + 1) (r * s.imageW + 2 * q) = .ok (s.pairByte r q :: bytes) := by
  have hsucc : (r + 1) * s.imageW = r * s.imageW + s.imageW := Nat.succ_mul r _
  have hcolumn : (r * s.imageW + 2 * q + 1) % s.imageW = (2 * q + 1) % s.imageW := by
    rw [Nat.add_assoc, Nat.mul_add_mod_self_right]
  rw [sifFrom, if_pos (by omega), hcolumn]
  by_cases hpair : 2 * q + 1 < s.imageW
  · have hend : r * s.imageW + min (2 * (q + 1)) s.imageW = r * s.imageW + 2 * q + 2 := by omega
    rw [hend] at hnext
    rw [Nat.mod_eq_of_lt hpair, if_neg (by omega), if_neg (by omega), hnext, State.pairByte, if_pos hpair]
    rfl
  · have hlast : 2 * q + 1 = s.imageW := by omega
    have hend : r * s.imageW + min (2 * (q + 1)) s.imageW = r * s.imageW + 2 * q + 1 := by omega
    rw [hend] at hnext
    rw [hlast, Nat.mod_self, if_pos (by omega), hnext, State.pairByte, if_neg hpair]
    rfl

/-- The `m` last bytes of row `r`, before the rows after it (R93). -/
theorem State.sifFrom_row {n r : Nat} {rest : List Byte} (hrow : (r + 1) * s.imageW ≤ n)
    (hrest : ∀ fuel, n ≤ (r + 1) * s.imageW + fuel →
      sifFrom s.idxAt s.imageW n fuel ((r + 1) * s.imageW) = .ok rest) :
    ∀ m q fuel, q + m = (s.imageW + 1) / 2 → n ≤ r * s.imageW + min (2 * q) s.imageW + fuel →
      sifFrom s.idxAt s.imageW n fuel (r * s.imageW + min (2 * q) s.imageW)
        = .ok ((List.range' q m).map (s.pairByte r) ++ rest)
  | 0, q, fuel, hq, hfuel => by
    have hend : r * s.imageW + min (2 * q) s.imageW = (r + 1) * s.imageW := by
      rw [Nat.succ_mul r]
      omega
    rw [hend] at hfuel ⊢
    exact hrest fuel hfuel
  | m + 1, q, fuel, hq, hfuel => by
    have hsucc : (r + 1) * s.imageW = r * s.imageW + s.imageW := Nat.succ_mul r _
    have hinside : 2 * q < s.imageW := by omega
    rw [min_eq_left hinside.le] at hfuel ⊢
    obtain ⟨fuel, rfl⟩ : ∃ k, fuel = k + 1 := ⟨fuel - 1, by omega⟩
    rw [List.range'_succ, List.map_cons, List.cons_append]
    exact State.sifFrom_pair hw hrow hinside
      (State.sifFrom_row hrow hrest m (q + 1) fuel (by omega) (by omega))

/-- The `m` last rows (R93). -/
theorem State.sifFrom_rows {n : Nat} : ∀ m r fuel, (r + m) * s.imageW = n → n ≤ r * s.imageW + fuel →
    sifFrom s.idxAt s.imageW n fuel (r * s.imageW) = .ok ((List.range' r m).flatMap s.pairedRow)
  | 0, r, fuel, hr, _ => by
    cases fuel with
    | zero => rfl
    | succ fuel => exact if_neg (by simpa using hr.ge)
  | m + 1, r, fuel, hr, hfuel => by
    have hrow : (r + 1) * s.imageW ≤ n := hr ▸ Nat.mul_le_mul_right _ (by omega)
    have hend : (r + 1 + m) * s.imageW = n := by rwa [Nat.add_assoc, Nat.add_comm 1]
    have hrest := fun fuel => State.sifFrom_rows m (r + 1) fuel hend
    rw [List.range'_succ, List.flatMap_cons, State.pairedRow_eq]
    simpa using State.sifFrom_row hw hrow hrest _ 0 fuel (Nat.zero_add _) (by simpa using hfuel)

/-- SifBody, row by row (R93). -/
theorem State.sifBody_eq :
    sifBody s.idxAt s.imageW (s.imageW * s.imageH) = .ok ((List.range s.imageH).flatMap s.pairedRow) := by
  have hrows := State.sifFrom_rows hw s.imageH 0 (s.imageW * s.imageH) (by rw [Nat.zero_add, Nat.mul_comm]) (by omega)
  rwa [Nat.zero_mul, ← List.range_eq_range'] at hrows

end

/-- Settles O44: the header fields fit, and the body is the rows' bytes. -/
theorem encodeSif : Obligations.EncodeSif := by
  intro s mode hr hw hwidth hheight hmax
  have he : s.encoded
      = .ok ⟨(s.sifHeaderBytes ++ (List.range s.imageH).flatMap s.pairedRow).map Token.data, false⟩ := by
    have hfits : ¬ (0xFFFF < evenWidth s.imageW ∨ 0xFFFF < s.imageH) :=
      not_or.mpr ⟨Nat.not_lt.mpr hwidth, Nat.not_lt.mpr hheight⟩
    rw [hr.encoded_sif, sif, if_neg hfits, State.sifBody_eq hw, State.sifHeader_eq]
    rfl
  refine exec_encode_ok hr he ?_
  have hheader : s.sifHeaderBytes.length = 7 := rfl
  simpa [hheader, State.pairedRow_length] using hmax

end Sys2Proof.Machine
end

section
/-! PROOFS. The raw encoders' statements: RAW4 (O37) and RAW2 (O38). -/

namespace Sys2Proof.Machine

/-! ### A raw encoder's loop, row by row (R85) -/

/-- `loop`, a function of the fuel and the sample it stands at, packs rows of `m` bytes, `k` samples to a byte: past the image
it emits nothing, and at sample `k * q` of row `r` it emits `byte r q`, the row's end if the row is done, and goes on behind
the samples it took. -/
structure State.PacksRows (s : State) (k m : Nat) (byte : Nat → Nat → Byte) (loop : Nat → Nat → List Token) : Prop where
  pos : 0 < k
  within : ∀ q, q < m ↔ k * q < s.imageW
  past : ∀ fuel i, s.pixelCount ≤ i → loop fuel i = []
  emit : ∀ fuel r q, r < s.imageH → k * q < s.imageW →
    loop (fuel + 1) (r * s.imageW + k * q)
      = .data (byte r q) :: (rowEnd s.imageW (r * s.imageW + min (k * (q + 1)) s.imageW)
          ++ loop fuel (r * s.imageW + min (k * (q + 1)) s.imageW))

/-- A sample of the image lies before its end (R18). -/
theorem State.pixel_lt_pixelCount {s : State} {r c : Nat} (hr : r < s.imageH) (hc : c < s.imageW) :
    r * s.imageW + c < s.pixelCount := by
  calc r * s.imageW + c < (r + 1) * s.imageW := by rw [Nat.succ_mul]; omega
    _ ≤ s.imageH * s.imageW := Nat.mul_le_mul_right _ hr
    _ = s.pixelCount := Nat.mul_comm _ _

theorem rowEnd_of_end (w r : Nat) : rowEnd w (r * w) = [.rowBreak] := if_pos (Nat.mul_mod_left r w)

theorem rowEnd_of_inside {w c : Nat} (r : Nat) (hc : 0 < c) (hcw : c < w) : rowEnd w (r * w + c) = [] :=
  if_neg (by rw [Nat.mul_add_mod_self_right, Nat.mod_eq_of_lt hcw]; omega)

section
variable {s : State} {k m : Nat} {byte : Nat → Nat → Byte} {loop : Nat → Nat → List Token}

/-- The `j + 1` last bytes of row `r`, its ROWBREAK, and the rows after it (R85). -/
theorem State.PacksRows.row (h : s.PacksRows k m byte loop) {r : Nat} {rest : List Token} (hr : r < s.imageH)
    (hrest : ∀ fuel, s.pixelCount ≤ (r + 1) * s.imageW + fuel → loop fuel ((r + 1) * s.imageW) = rest) :
    ∀ j q fuel, q + (j + 1) = m → s.pixelCount ≤ r * s.imageW + k * q + fuel →
      loop fuel (r * s.imageW + k * q)
        = ((List.range' q (j + 1)).map (byte r)).map Token.data ++ .rowBreak :: rest := by
  intro j q fuel hq hfuel
  have hinside : k * q < s.imageW := (h.within q).mp (by omega)
  have hlt := State.pixel_lt_pixelCount hr hinside
  obtain ⟨fuel, rfl⟩ : ∃ f, fuel = f + 1 := ⟨fuel - 1, by omega⟩
  have hk : k * (q + 1) = k * q + k := Nat.mul_succ k q
  have hpos := h.pos
  rw [h.emit fuel r q hr hinside]
  cases j with
  | zero =>
    have hlast : s.imageW ≤ k * (q + 1) := Nat.not_lt.mp (mt (h.within (q + 1)).mpr (by omega))
    have hend : r * s.imageW + s.imageW = (r + 1) * s.imageW := (Nat.succ_mul r _).symm
    rw [min_eq_right hlast, hend, rowEnd_of_end, hrest fuel (by omega)]
    rfl
  | succ j =>
    have hnext : k * (q + 1) < s.imageW := (h.within (q + 1)).mp (by omega)
    rw [min_eq_left hnext.le, rowEnd_of_inside r (by omega) hnext,
      h.row hr hrest j (q + 1) fuel (by omega) (by omega)]
    rfl

/-- The `j` last rows (R85). -/
theorem State.PacksRows.rows (h : s.PacksRows k m byte loop) (hw : 0 < s.imageW) :
    ∀ j r fuel, r + j = s.imageH → s.pixelCount ≤ r * s.imageW + fuel →
      loop fuel (r * s.imageW)
        = (List.range' r j).flatMap (fun r => ((List.range' 0 m).map (byte r)).map Token.data ++ [.rowBreak])
  | 0, r, fuel, hr, _ => h.past fuel _ (by rw [State.pixelCount, ← hr, Nat.mul_comm]; rfl)
  | j + 1, r, fuel, hr, hfuel => by
    have hrest := fun fuel => State.PacksRows.rows h hw j (r + 1) fuel (by omega)
    obtain ⟨l, rfl⟩ : ∃ l, m = l + 1 := ⟨m - 1, by have := (h.within 0).mpr hw; omega⟩
    rw [List.range'_succ (s := r), List.flatMap_cons, List.append_assoc]
    exact h.row (by omega) hrest l 0 fuel (Nat.zero_add _) hfuel

/-- The whole image, with a fuel of one for each sample (R85). -/
theorem State.PacksRows.image (h : s.PacksRows k m byte loop) (hw : 0 < s.imageW) :
    loop s.pixelCount 0
      = (List.range s.imageH).flatMap (fun r => ((List.range' 0 m).map (byte r)).map Token.data ++ [.rowBreak]) := by
  have hrows := h.rows hw s.imageH 0 s.pixelCount (Nat.zero_add _) (by omega)
  rwa [Nat.zero_mul, ← List.range_eq_range' (n := s.imageH)] at hrows

end

/-! ### What ENCODE is ready for in the raw modes (R72, R79) -/

section
variable {s : State} {fmt : Format} {mode : Mode}

/-- A raw image has a column (R72). -/
theorem State.EncodeReady.imageW_pos (h : s.EncodeReady fmt mode) (hmode : mode = .screen5 ∨ mode = .screen6) :
    0 < s.imageW := by
  have hd := h.dims
  obtain rfl | rfl := hmode <;> exact (decide_eq_true_iff.mp hd).1

theorem State.EncodeReady.encoded_raw4 (h : s.EncodeReady .asm .screen5) :
    s.encoded = .ok ⟨raw4 s.idxAt s.imageW s.pixelCount, false⟩ := by
  simp only [State.encoded, h.fmt_eq, h.mode_eq]

theorem State.EncodeReady.encoded_raw2 (h : s.EncodeReady .asm .screen6) :
    s.encoded = .ok ⟨raw2 s.idxAt s.imageW s.pixelCount, false⟩ := by
  simp only [State.encoded, h.fmt_eq, h.mode_eq]

end

/-! ### RAW4 (R86) -/

theorem raw4From_past {ix : Nat → Nibble} {w n : Nat} (fuel : Nat) {i : Nat} (hi : n ≤ i) : raw4From ix w n fuel i = [] := by
  cases fuel with
  | zero => rfl
  | succ fuel => exact if_neg (Nat.not_lt.mpr hi)

theorem raw4_packsRows (s : State) :
    s.PacksRows 2 ((s.imageW + 1) / 2) s.pairByte (raw4From s.idxAt s.imageW s.pixelCount) where
  pos := by decide
  within q := by omega
  past fuel _ hi := raw4From_past fuel hi
  emit fuel r q hr hq := by
    rw [raw4From, if_pos (State.pixel_lt_pixelCount hr hq), Nat.mul_add_mod_self_right, Nat.mod_eq_of_lt hq]
    by_cases hpair : 2 * q + 1 < s.imageW
    · rw [if_neg (by omega), min_eq_left (by omega), State.pairByte, if_pos hpair]
      rfl
    · have hlast : s.imageW = 2 * q + 1 := by omega
      rw [if_pos (by omega), min_eq_right (by omega), State.pairByte, if_neg hpair, Nat.add_assoc, ← hlast]
      rfl

/-- Settles O37: RAW4's loop packs rows of two samples to a byte. -/
theorem encodeRaw4 : Obligations.EncodeRaw4 := by
  intro s hr hmax
  have he : s.encoded = .ok ⟨.sect .main ::
      (List.range s.imageH).flatMap (fun r => (s.pairedRow r).map Token.data ++ [.rowBreak]), false⟩ := by
    simp only [hr.encoded_raw4, raw4, (raw4_packsRows s).image (hr.imageW_pos (.inl rfl)), State.pairedRow_eq]
  refine exec_encode_ok hr he ?_
  simpa [State.pairedRow_length, Nat.add_comm 1] using hmax

/-! ### RAW2 (R87) -/

theorem raw2From_past {ix : Nat → Nibble} {w n : Nat} (fuel : Nat) {i : Nat} (hi : n ≤ i) : raw2From ix w n fuel i = [] := by
  cases fuel with
  | zero => rfl
  | succ fuel => exact if_neg (Nat.not_lt.mpr hi)

/-- Zero samples behind the `k` samples of a byte leave it as it is (R85 (b)). -/
theorem raw2Byte_padded {ix px : Nat → Nibble} {i k n : Nat} (hsame : ∀ j < k, px j = ix (i + j))
    (hzero : ∀ j, k ≤ j → j < n → px j = 0) (hn : k ≤ n) : raw2Byte px 0 n = raw2Byte ix i k := by
  induction n, hn using Nat.le_induction with
  | base =>
    refine List.foldl_ext _ _ _ fun b j hj => ?_
    rw [Nat.zero_add, hsame j (List.mem_range.mp hj)]
  | succ n hn ih =>
    rw [raw2Byte, List.range_succ, List.foldl_append]
    refine Eq.trans ?_ (ih fun j hj hjn => hzero j hj (by omega))
    simp [hzero n hn n.lt_succ_self, raw2Byte]

/-- A sample of two bits as a byte. -/
theorem setWidth_of_le_three {v : Nibble} (h : v.toNat ≤ 3) : (v.setWidth 8 : Byte) = (v.setWidth 2).setWidth 8 := by
  apply BitVec.eq_of_toNat_eq
  simp only [BitVec.toNat_setWidth]
  omega

/-- Four two-bit fields side by side. -/
theorem or_shifted_pairs (a b c d : BitVec 2) :
    (a.setWidth 8 <<< 6 ||| b.setWidth 8 <<< 4 ||| c.setWidth 8 <<< 2 ||| d.setWidth 8 : BitVec 8)
      = (a ++ b ++ c ++ d : BitVec (2 + 2 + 2 + 2)) := by
  apply BitVec.eq_of_getLsbD_eq
  intro i hi
  rw [BitVec.getLsbD_append, BitVec.getLsbD_append, BitVec.getLsbD_append]
  interval_cases i <;> simp

/-- The byte of four samples of two bits (R87). -/
theorem raw2Byte_four {px : Nat → Nibble} (h : ∀ j, (px j).toNat ≤ 3) :
    raw2Byte px 0 4 = ((px 0).setWidth 2 ++ (px 1).setWidth 2 ++ (px 2).setWidth 2 ++ (px 3).setWidth 2
      : BitVec (2 + 2 + 2 + 2)) := by
  rw [← or_shifted_pairs]
  simp [raw2Byte, List.range_succ, setWidth_of_le_three (h _)]

/-- The byte of samples `4 * q` to `4 * q + 3` of row `r`, 0 for a sample past the row's end (R87). -/
def State.quadByte (s : State) (r q : Nat) : Byte :=
  (s.pairOfBits r (4 * q) ++ s.pairOfBits r (4 * q + 1) ++ s.pairOfBits r (4 * q + 2) ++ s.pairOfBits r (4 * q + 3)
    : BitVec (2 + 2 + 2 + 2))

theorem State.quadRow_eq (s : State) (r : Nat) :
    s.quadRow r = (List.range' 0 ((s.imageW + 3) / 4)).map (s.quadByte r) := by
  rw [← List.range_eq_range']
  rfl

theorem State.quadRow_length (s : State) (r : Nat) : (s.quadRow r).length = (s.imageW + 3) / 4 := by
  simp [State.quadRow]

/-- Sample `c` of row `r`, 0 past the row's end (R85 (b)). -/
def State.paddedPixel (s : State) (r c : Nat) : Nibble := if c < s.imageW then s.pixel r c else 0

theorem State.paddedPixel_setWidth (s : State) (r c : Nat) : (s.paddedPixel r c).setWidth 2 = s.pairOfBits r c := by
  unfold State.paddedPixel State.pairOfBits
  split <;> rfl

section
variable {s : State} (h3 : ∀ i < s.pixelCount, (s.idxAt i).toNat ≤ 3)
include h3

theorem State.paddedPixel_le_three {r : Nat} (hr : r < s.imageH) (c : Nat) : (s.paddedPixel r c).toNat ≤ 3 := by
  unfold State.paddedPixel
  split
  next hc => exact h3 _ (State.pixel_lt_pixelCount hr hc)
  next => exact Nat.zero_le 3

/-- RAW2's byte at sample `4 * q` of row `r` (R87). -/
theorem State.raw2Byte_eq {r : Nat} (hr : r < s.imageH) (q : Nat) :
    raw2Byte s.idxAt (r * s.imageW + 4 * q) (min 4 (s.imageW - 4 * q)) = s.quadByte r q := by
  have hsame : ∀ j < min 4 (s.imageW - 4 * q),
      s.paddedPixel r (4 * q + j) = s.idxAt (r * s.imageW + 4 * q + j) := fun j hj => by
    rw [State.paddedPixel, if_pos (by omega), State.pixel, Nat.add_assoc]
  have hzero : ∀ j, min 4 (s.imageW - 4 * q) ≤ j → j < 4 → s.paddedPixel r (4 * q + j) = 0 := fun j hj hj4 =>
    if_neg (by omega)
  rw [← raw2Byte_padded hsame hzero (min_le_left _ _), raw2Byte_four fun j => State.paddedPixel_le_three h3 hr _]
  simp only [State.paddedPixel_setWidth]
  rfl

theorem raw2_packsRows :
    s.PacksRows 4 ((s.imageW + 3) / 4) s.quadByte (raw2From s.idxAt s.imageW s.pixelCount) where
  pos := by decide
  within q := by omega
  past fuel _ hi := raw2From_past fuel hi
  emit fuel r q hr hq := by
    have hend : r * s.imageW + 4 * q + min 4 (s.imageW - 4 * q) = r * s.imageW + min (4 * (q + 1)) s.imageW := by omega
    rw [raw2From, if_pos (State.pixel_lt_pixelCount hr hq), Nat.mul_add_mod_self_right, Nat.mod_eq_of_lt hq]
    simp only [hend, State.raw2Byte_eq h3 hr]

end

/-- Settles O38: RAW2's loop packs rows of four samples of two bits to a byte. -/
theorem encodeRaw2 : Obligations.EncodeRaw2 := by
  intro s hr h3 hmax
  have he : s.encoded = .ok ⟨.sect .main ::
      (List.range s.imageH).flatMap (fun r => (s.quadRow r).map Token.data ++ [.rowBreak]), false⟩ := by
    simp only [hr.encoded_raw2, raw2, (raw2_packsRows h3).image (hr.imageW_pos (.inr rfl)), State.quadRow_eq]
  refine exec_encode_ok hr he ?_
  simpa [State.quadRow_length, Nat.add_comm 1] using hmax

end Sys2Proof.Machine
end

section
/-! PROOFS. The sprite encoders' statements: SPRITE1 of a sprite with one colour or none (O39), SPRITELC of an 8x8 sprite (O41) and the post-processing of a 16x16 one (O43). -/

namespace Sys2Proof.Machine

/-! ### The shape bytes (R88) -/

/-- The shape byte of every block row, in visiting order (R88). -/
def State.shapeBytes (s : State) : List Byte :=
  (blockRows (blockCount s.imageW s.imageH)).map (shapeByte s.idxAt s.imageW)

/-- The block rows of the sprite, by their numbers (R88). -/
theorem State.blockRows_sprite (s : State) :
    blockRows (blockCount s.imageW s.imageH) = (List.range s.blockRowCount).map (fun q => (q / 8, q % 8)) :=
  blockRows_eq _

@[simp] theorem State.shapeBytes_length (s : State) : s.shapeBytes.length = s.blockRowCount := by
  simp [State.shapeBytes, State.blockRows_sprite]

theorem State.visited_eq_blockPixel (s : State) (q : Nat) {k : Nat} (hk : k < 8) :
    s.visited (8 * q + k) = blockPixel s.idxAt s.imageW (q / 8) (q % 8) k := by
  obtain ⟨hblock, hline, hcolumn⟩ := visiting_number q hk
  rw [State.visited, hblock, hline, hcolumn]
  rfl

/-- The bits of a block row's shape byte (R88). -/
theorem State.shapeByte_bit (s : State) (q : Nat) {k : Nat} (hk : k < 8) :
    (shapeByte s.idxAt s.imageW (q / 8, q % 8)).getLsbD (7 - k) = decide (s.visited (8 * q + k) ≠ 0) := by
  rw [shapeByte, maskByte_bit _ hk, s.visited_eq_blockPixel q hk, Bool.eq_iff_iff, bne_iff_ne, decide_eq_true_iff]

theorem State.isShape_shapeBytes (s : State) : s.IsShape s.shapeBytes := by
  refine ⟨s.shapeBytes_length, fun q hq k hk => ?_⟩
  rw [State.shapeBytes, State.blockRows_sprite, List.map_map, getD_map_range _ _ hq]
  exact s.shapeByte_bit q hk

/-! ### SPRS where its check passes (R89, R100) -/

section
variable {s : State}

/-- The check of the whole sprite visits its pixels in order (R88, R89). -/
theorem State.tryFold_blockRows (code : FaultCode) :
    tryFold (trackRow code s.idxAt s.imageW) none (blockRows (blockCount s.imageW s.imageH))
      = tryFold (s.trackVisited code) none (List.range' 0 (8 * s.blockRowCount)) := by
  rw [State.blockRows_sprite, State.tryFold_trackRow]

theorem State.sprSingle_of_one {g : Nibble} (h : s.OneColorBefore 0 (8 * s.blockRowCount) g) :
    sprSingle s.idxAt s.imageW s.imageH
      = .ok ⟨.sect .main :: s.shapeBytes.map Token.data ++ [.sect .color, .data (g.setWidth 8)], false⟩ := by
  obtain ⟨hg, hall, p, -, hp, hpg⟩ := h
  have hcheck := State.tryFold_trackVisited_one (code := .multipleSpriteColors) hg
    (fun q hq => hall q (Nat.zero_le q) (List.mem_range.mp hq)) ⟨p, List.mem_range.mpr hp, hpg⟩
  rw [List.range_eq_range', ← State.tryFold_blockRows] at hcheck
  simp only [sprSingle, hcheck, State.shapeBytes, List.map_map]
  rfl

theorem State.sprSingle_of_none (h : ∀ p < 8 * s.blockRowCount, s.visited p = 0) :
    sprSingle s.idxAt s.imageW s.imageH = .ok ⟨.sect .main :: s.shapeBytes.map Token.data, true⟩ := by
  have hcheck := State.tryFold_trackVisited_zero (code := .multipleSpriteColors) (g := none)
    (fun q hq => h q (List.mem_range.mp hq))
  rw [List.range_eq_range', ← State.tryFold_blockRows] at hcheck
  simp only [sprSingle, hcheck, State.shapeBytes, List.map_map]
  rfl

end

/-- Settles O39: the check over the whole sprite finds its one colour, or none. -/
theorem encodeSpriteSingle : Obligations.EncodeSpriteSingle := by
  intro s hr hmax
  refine ⟨fun g hone => ⟨s.shapeBytes, s.isShape_shapeBytes, ?_⟩,
    fun hnone => ⟨s.shapeBytes, s.isShape_shapeBytes, ?_⟩⟩
  · exact exec_encode_ok hr (hr.encoded_sprSingle.trans (State.sprSingle_of_one hone)) (le_trans (by simp +arith) hmax)
  · exact exec_encode_ok hr (hr.encoded_sprSingle.trans (State.sprSingle_of_none hnone)) (le_trans (by simp +arith) hmax)

/-! ### SPRL where its row checks pass (R90) -/

/-- The entries of a list, by their numbers. -/
theorem map_getD_range {α : Type} (xs : List α) (d : α) : (List.range xs.length).map (fun i => xs.getD i d) = xs :=
  List.ext_getElem (by simp) fun i _ hi => by simp [hi]

/-- A SPRITELC sprite is as high as it is wide (R72). -/
theorem State.EncodeReady.imageH_spritelc {s : State} {fmt : Format} (h : s.EncodeReady fmt .spritelc) :
    s.imageH = s.imageW := by
  obtain ⟨hw, hh⟩ | ⟨hw, hh⟩ := decide_eq_true_iff.mp h.dims <;> exact hh.trans hw.symm

section
variable {s : State} {colors : List Nibble} (hlen : colors.length = s.blockRowCount)
  (hcolors : ∀ q < s.blockRowCount, s.IsLineColor q (colors.getD q 0))
include hlen hcolors

/-- The row checks of a sprite of one colour in each block row answer those colours (R90). -/
theorem State.tryMap_lineColor :
    tryMap (lineColor s.idxAt s.imageW) (blockRows (blockCount s.imageW s.imageH)) = .ok colors := by
  rw [State.blockRows_sprite, tryMap_map,
    tryMap_ok (g := fun q => colors.getD q 0) (fun q hq => ?_), ← hlen, map_getD_range]
  exact (hcolors q (List.mem_range.mp hq)).lineColor_eq

theorem State.sprLine_of_one_block (post : Option (List (List Nibble × List Byte)))
    (hblocks : blockCount s.imageW s.imageH = 1) :
    sprLine post s.idxAt s.imageW s.imageH
      = .ok ⟨lineOutput s.shapeBytes (colors.map (fun c => c.setWidth 8)), false⟩ := by
  simp only [sprLine, State.tryMap_lineColor hlen hcolors, if_pos hblocks]
  rfl

theorem State.sprLine_of_more_blocks (post : Option (List (List Nibble × List Byte)))
    (hblocks : blockCount s.imageW s.imageH ≠ 1) :
    sprLine post s.idxAt s.imageW s.imageH = sprLinePost post s.shapeBytes colors := by
  simp only [sprLine, State.tryMap_lineColor hlen hcolors, if_neg hblocks]
  rfl

end

theorem lineOutput_length (shape colors : List Byte) :
    (lineOutput shape colors).length = 2 + shape.length + colors.length := by
  simp +arith [lineOutput]

/-- Settles O41: an 8x8 sprite is one block, so SPRL's own table ends the output. -/
theorem encodeSpriteLine : Obligations.EncodeSpriteLine := by
  intro s colors hr hw hmax hlen hcolors
  have hblocks : blockCount s.imageW s.imageH = 1 := by rw [hr.imageH_spritelc, hw]; rfl
  have hcount : s.blockRowCount = 8 := congrArg (8 * ·) hblocks
  rw [← hcount] at hlen hcolors
  have he := hr.encoded_sprLine.trans (State.sprLine_of_one_block hlen hcolors _ hblocks)
  refine ⟨s.shapeBytes, s.isShape_shapeBytes, ?_⟩
  have hout := exec_encode_ok hr he (by simpa [lineOutput_length, hlen, hcount] using hmax)
  rwa [lineOutput, List.map_map] at hout

/-! ### The post-processing of a 16x16 sprite (R13, R91) -/

/-- A replacement refuses the line colours its graph does not hold (R13). -/
theorem postBytes_none {lc : List Nibble} : ∀ {graph : List (List Nibble × List Byte)}, (∀ p ∈ graph, p.1 ≠ lc) →
    postBytes graph lc = none
  | [], _ => rfl
  | (arg, bytes) :: rest, h => by
    obtain ⟨hne, hrest⟩ := List.forall_mem_cons.mp h
    rw [postBytes, if_neg hne, postBytes_none hrest]

/-- A replacement answers the bytes of the first pair with the line colours (R13). -/
theorem postBytes_first {lc : List Nibble} {bytes : List Byte} {post : List (List Nibble × List Byte)} :
    ∀ {pre : List (List Nibble × List Byte)}, (∀ p ∈ pre, p.1 ≠ lc) →
    postBytes (pre ++ (lc, bytes) :: post) lc = some bytes
  | [], _ => if_pos rfl
  | (arg, other) :: rest, h => by
    obtain ⟨hne, hrest⟩ := List.forall_mem_cons.mp h
    rw [List.cons_append, postBytes, if_neg hne, postBytes_first hrest]

theorem sprLinePost_refused {graph : List (List Nibble × List Byte)} {shape : List Byte} {lc : List Nibble}
    (h : postBytes graph lc = none) : sprLinePost (some graph) shape lc = .error layoutOpenTrap := by
  simp only [sprLinePost, h]

theorem sprLinePost_answered {graph : List (List Nibble × List Byte)} {shape bytes : List Byte} {lc : List Nibble}
    (h : postBytes graph lc = some bytes) : sprLinePost (some graph) shape lc = .ok ⟨lineOutput shape bytes, false⟩ := by
  simp only [sprLinePost, h]

/-- Settles O43: a 16x16 sprite is four blocks, so the output is SprLinePost's. -/
theorem lineSpritePost : Obligations.LineSpritePost := by
  intro s colors hr hw hlen hcolors
  have hblocks : blockCount s.imageW s.imageH = 4 := by rw [hr.imageH_spritelc, hw]; rfl
  have hcount : s.blockRowCount = 32 := congrArg (8 * ·) hblocks
  rw [← hcount] at hlen hcolors
  have he : s.encoded = sprLinePost s.params.spritePost s.shapeBytes colors :=
    hr.encoded_sprLine.trans (State.sprLine_of_more_blocks hlen hcolors _ (by rw [hblocks]; decide))
  refine ⟨fun hpost => ?_, fun graph hpost => ⟨fun hrefuse => ?_, fun bytes pre post hgraph hpre hmax => ?_⟩⟩
  · rw [hpost] at he
    exact exec_encode_error hr he
  · rw [hpost, sprLinePost_refused (postBytes_none hrefuse)] at he
    exact exec_encode_error hr he
  · rw [hpost, hgraph, sprLinePost_answered (postBytes_first hpre)] at he
    refine ⟨s.shapeBytes, s.isShape_shapeBytes, exec_encode_ok hr he ?_⟩
    simpa [lineOutput_length, hcount] using hmax

end Sys2Proof.Machine
end

section
/-! PROOFS. The last statements: SIF of an image one wide (O45) and of one too large for its header (O46), phase FAULT (O16, O59), sequencing (O17), the engine's progress (O55), reset between accesses (O14), and the placed command (O8). -/

namespace Sys2Proof

/-! ### The words of CFG (R59, R96) -/

/-- The words of CFG are those under R59's mask whose MODE is one of 0..7. -/
theorem exists_decode_cfg_iff {w : Word} :
    (∃ fmt mode, decode [w] = .ok (.cfg fmt mode, [])) ↔ w &&& 0xFFFFFFE0 = 0x10000000 ∧ w.toNat % 16 ≤ 7 := by
  have hrow : w &&& 0xFFFFFFE0 = 0x10000000 ↔ w.toNat / 2 ^ 5 = 0x800000 := and_mask_eq_iff rfl rfl
  simp only [decode_cfg_iff, hrow]
  constructor
  · rintro ⟨fmt, mode, hword, -, hmode⟩
    have hle : mode.bits.toNat ≤ 7 := by cases mode <;> decide
    omega
  · rintro ⟨hword, hle⟩
    obtain ⟨fmt, hfmt⟩ := Format.exists_bit (n := w.toNat / 2 ^ 4 % 2 ^ 1) (Nat.mod_lt _ (by decide))
    obtain ⟨mode, hmode⟩ := Mode.exists_bits (n := w.toNat % 2 ^ 4) (by omega)
    exact ⟨fmt, mode, hword, hfmt, hmode⟩

/-- The decoder's answer to two words: the second one is left over unless OPC is 2 (R56). -/
theorem decode_pair (w w1 : Word) : ∃ rest, decode [w, w1] = .ok (decodeCommand w w1, rest) := by
  by_cases h2 : opcodeOf w = 2
  · have hwords : [w, w1] = commandWords w w1 ++ [] := by rw [commandWords, if_pos h2, List.append_nil]
    exact ⟨[], hwords ▸ decode_commandWords w w1 []⟩
  · have hwords : [w, w1] = commandWords w w1 ++ [w1] := by rw [commandWords, if_neg h2, List.singleton_append]
    exact ⟨[w1], hwords ▸ decode_commandWords w w1 [w1]⟩

theorem decodeTableWord_eq (nbits w : Nat) :
    decodeTableWord nbits w = some (decodeCommand (tableWords nbits w).1 (tableWords nbits w).2) := by
  obtain ⟨rest, hrest⟩ := decode_pair (tableWords nbits w).1 (tableWords nbits w).2
  rw [decodeTableWord, hrest]

end Sys2Proof

namespace Sys2Proof.Machine

/-! ### SIF of an image one wide, and its header's limits (R92, R93) -/

/-- In an image one wide every sample but the first ends its row, so it has a byte of its own. -/
theorem sifFrom_one_column {ix : Nat → Nibble} {n : Nat} : ∀ m i fuel, i ≠ 0 → i + m = n → m ≤ fuel →
    sifFrom ix 1 n fuel i = .ok ((List.range' i m).map fun j => nibblePair (ix j) 0)
  | 0, i, 0, _, _, _ => rfl
  | 0, i, fuel + 1, _, hend, _ => if_neg (by omega)
  | m + 1, i, fuel + 1, hi, hend, hfuel => by
    have hnext := sifFrom_one_column (ix := ix) (n := n) m (i + 1) fuel (by omega) (by omega) (by omega)
    rw [sifFrom, if_pos (by omega), if_pos ⟨hi, Nat.mod_one _⟩, hnext]
    rfl

/-- The first sample takes the second one into its byte, for the row's end is not looked for at sample 0. -/
theorem sifBody_one_column {ix : Nat → Nibble} {n : Nat} (hn : 2 ≤ n) :
    sifBody ix 1 n
      = .ok (nibblePair (ix 0) (ix 1) :: (List.range (n - 2)).map fun i => nibblePair (ix (i + 2)) 0) := by
  obtain ⟨m, rfl⟩ := Nat.exists_eq_add_of_le' hn
  have htail := sifFrom_one_column (ix := ix) (n := m + 2) m 2 (m + 1) (by decide) (Nat.add_comm 2 m) (by omega)
  rw [sifBody, sifFrom, if_pos (by omega), if_neg (by simp), if_neg (by omega), htail]
  simp [List.range'_eq_map_range, Nat.add_comm 2]

theorem sifBody_one_pixel (ix : Nat → Nibble) :
    sifBody ix 1 1 = .error { code := .outOfRange, a := 1, b := 0, c := 1 } := rfl

/-- Settles O45: sample 0 pairs with sample 1, which a 1x1 image does not have. -/
theorem encodeSifOneColumn : Obligations.EncodeSifOneColumn := by
  intro s mode hr hw hheight
  have hfits : ¬ (0xFFFF < evenWidth s.imageW ∨ 0xFFFF < s.imageH) := by
    rw [hw]
    exact not_or.mpr ⟨by decide, hheight.not_gt⟩
  have he := hr.encoded_sif
  rw [sif, if_neg hfits, State.sifHeader_eq, hw, Nat.one_mul] at he
  refine ⟨fun hrows hmax => ?_, fun hrow => ?_⟩
  · simp only [sifBody_one_column hrows, nibblePair_eq_ofNat] at he
    refine exec_encode_ok hr he ?_
    have hheader : s.sifHeaderBytes.length = 7 := rfl
    simp only [List.length_map, List.length_append, List.length_cons, List.length_range, hheader]
    omega
  · rw [hrow, sifBody_one_pixel] at he
    exact exec_encode_error hr he

/-- Settles O46: the header check comes before the body. -/
theorem sifHeaderTooLarge : Obligations.SifHeaderTooLarge := by
  intro s mode hr hlarge
  have he : s.encoded = .error ⟨.invalidDimensions, s.width, s.height, 1, mode.bits.setWidth 32⟩ :=
    hr.encoded_sif.trans (congrArg plainOutput (if_pos hlarge))
  exact exec_encode_error hr he

/-! ### Phase FAULT (R96, R97) -/

/-- Settles O16: a command and each kind of word, by the length rule and the words of CFG. -/
theorem faultPhaseIgnores : Obligations.FaultPhaseIgnores := by
  intro s hf
  obtain ⟨hcommand, hfirst, -, hsecond, -⟩ := lutWrWordsPair
  obtain ⟨heffect, hwords, -⟩ := cfgStartsRun
  refine ⟨fun i hi => exec_ignored hf hi, fun w rest hr => ⟨fun hw => hsecond s rest w hr hw hf,
    fun hw h2 => hfirst s w rest hr hw h2, fun hw h2 hbad => ?_, fun hw hcfg => ?_⟩⟩
  · obtain ⟨i, hdecode, hstep⟩ := hcommand s w rest hr hw h2
    rw [hstep]
    refine exec_ignored hf fun fmt mode hi => hbad (exists_decode_cfg_iff.mp ⟨fmt, mode, ?_⟩)
    rw [hdecode, hi]
  · obtain ⟨fmt, mode, hdecode⟩ := exists_decode_cfg_iff.mpr hcfg
    obtain ⟨-, hfmt, hmode⟩ := (hwords fmt mode w).mp hdecode
    refine ⟨fmt, mode, hfmt, hmode, ?_⟩
    rw [stepRunsDecodedCommand s w rest _ hr hw hdecode, heffect]

/-- The one command that leaves phase FAULT is CFG. -/
theorem Effect.cfg_of_leaves_fault {s t : State} {i : Instr} (he : Effect s i t) (hs : s.phase = .fault)
    (ht : t.phase ≠ .fault) : ∃ fmt mode, i = .cfg fmt mode := by
  cases he with
  | cfg fmt mode => exact ⟨fmt, mode, rfl⟩
  | lutDef hp => exact absurd (hs.symm.trans hp) nofun
  | hdr hp => exact absurd hs (phase_ne_fault_of_input hp)
  | classify _ hp => exact absurd (hs.symm.trans hp) nofun
  | encode _ hp => exact absurd (hs.symm.trans hp) nofun
  | trap | hdrTrap | encodeTrap => exact absurd rfl ht
  | nop | ignored | lutWr | fileWr => exact absurd hs ht

/-- Settles O59: the port keeps PHASE, and an awaited operand completes a LUT_WR, so what leaves phase FAULT is a reset or a
whole command's word, which is CFG's. -/
theorem onlyCfgOrResetLeavesFault : Obligations.OnlyCfgOrResetLeavesFault := by
  intro s t hs hstep ht
  cases step_effect hstep with
  | idle | read | write | latch => exact absurd hs ht
  | reset rest hr => exact .inr ⟨rest, hr⟩
  | operand w rest _ _ _ he =>
    obtain ⟨fmt, mode, hi⟩ := he.cfg_of_leaves_fault hs ht
    exact absurd hi nofun
  | command w rest i _ hr hw hdecode he =>
    obtain ⟨fmt, mode, rfl⟩ := he.cfg_of_leaves_fault hs ht
    have hword : (Instr.cfg fmt mode).firstWord = w :=
      (decode_single_iff rfl (by simp [Laws.Length.opcode])).mp hdecode
    exact .inl ⟨hw, fmt, mode, rest, hword ▸ hr⟩

/-! ### Sequencing (R105) -/

theorem accepts_classify_iff {s : State} : accepts .classify s = true ↔ s.phase = .hdrOk := decide_eq_true_iff

theorem accepts_encode_iff {s : State} : accepts .encode s = true ↔ s.phase = .classified := decide_eq_true_iff

/-- Settles O17: the phases that do not accept a command by R105's table, and the next phase of every effect that does not
end in phase FAULT. -/
theorem sequencingByPhase : Obligations.SequencingByPhase := by
  refine ⟨fun s hf => ⟨fun hp len rgb w1 => ?_, fun hp => ?_, fun hp => ⟨fun b => ?_, ?_⟩, fun hp => ?_, fun hp => ?_⟩,
    fun i s t h ht => ?_⟩
  · exact sequenced_rejected hf (Bool.eq_false_iff.mpr (mt accepts_lutWr_iff.mp hp))
  · exact sequenced_rejected hf (Bool.eq_false_iff.mpr (mt accepts_lutDef_iff.mp (not_and_or.mpr hp)))
  · exact sequenced_rejected hf (Bool.eq_false_iff.mpr (mt accepts_fileWr_iff.mp (not_or.mpr hp)))
  · exact sequenced_rejected hf (Bool.eq_false_iff.mpr (mt accepts_hdr_iff.mp (not_or.mpr hp)))
  · exact sequenced_rejected hf (Bool.eq_false_iff.mpr (mt accepts_classify_iff.mp hp))
  · exact sequenced_rejected hf (Bool.eq_false_iff.mpr (mt accepts_encode_iff.mp hp))
  · cases exec_effect h with
    | nop | cfg => rfl
    | ignored _ hs => exact absurd hs ht
    | trap | hdrTrap | encodeTrap => exact absurd rfl ht
    | lutWr _ _ _ hp => exact ⟨hp, hp⟩
    | lutDef hp hc => exact ⟨hp, hc, rfl⟩
    | fileWr _ hp => exact ⟨hp, rfl⟩
    | hdr hp => exact ⟨hp, rfl⟩
    | classify _ hp => exact ⟨hp, rfl⟩
    | encode _ hp => exact ⟨hp, rfl⟩

/-! ### Progress (R110) -/

/-- A command its phase does not accept answers all the same: it is ignored, or it raises a fault. -/
theorem exec_answers_of_not_accepted {i : Instr} {s : State} (ha : accepts i s = false) :
    ∃ t, exec i s = .next t := by
  by_cases hf : s.phase = .fault
  · exact ⟨s, exec_ignored hf (by rintro fmt mode rfl; cases ha)⟩
  · cases i with
    | nop | cfg => cases ha
    | illegal w => exact ⟨_, exec_illegal hf⟩
    | _ => exact ⟨_, sequenced_rejected hf ha⟩

section
variable {s : State}

/-- One of R69's four cases applies where LUT_COUNT is within LUT_DEPTH. -/
theorem State.SpacesOk.writeLut_answers (h : s.SpacesOk) (len : BitVec 4) (rgb : Rgb) (w1 : Word) :
    ∃ t, writeLut len rgb w1 s = .next t := by
  by_cases hlen : len = 3
  · subst hlen
    cases hidx : s.mode.legal (signedIndex w1) with
    | false => exact ⟨_, writeLut_badIndex hidx⟩
    | true =>
      obtain hlt | heq := h.lutCount.lt_or_eq
      · exact ⟨_, writeLut_append hidx hlt⟩
      · exact ⟨_, writeLut_full hidx (BitVec.eq_of_toNat_eq heq)⟩
  · exact ⟨_, writeLut_badLength hlen⟩

theorem State.SpacesOk.writeFile_answers (h : s.SpacesOk) (b : Byte) : ∃ t, writeFile b s = .next t := by
  obtain hlt | heq := h.fileLen.lt_or_eq
  · exact ⟨_, writeFile_append hlt⟩
  · exact ⟨_, writeFile_full (BitVec.eq_of_toNat_eq heq)⟩

theorem State.SpacesOk.takeHeader_answers (h : s.SpacesOk) : ∃ t, takeHeader s = .next t := by
  obtain hlt | hge := Nat.lt_or_ge s.fileLen.toNat 26
  · exact ⟨_, takeHeader_truncated hlt⟩
  · exact ⟨_, takeHeader_read hge h.fileLen⟩

theorem State.Inv.classify_answers (h : s.Inv) (hp : s.phase = .hdrOk) : ∃ t, exec .classify s = .next t := by
  obtain ⟨-, hn, -⟩ := h.image.dims (.inl hp)
  cases hall : s.classifyAll with
  | error t => exact ⟨_, exec_classify_error hp h.spaces hn hall⟩
  | ok px => exact ⟨_, exec_classify_ok hp h.spaces hn hall⟩

theorem State.Inv.encode_answers (h : s.Inv) (hp : s.phase = .classified) : ∃ t, exec .encode s = .next t := by
  obtain ⟨hdims, hn, -⟩ := h.image.dims (.inr (.inl hp))
  have hr : s.EncodeReady s.fmt s.mode := ⟨hp, rfl, rfl, hdims, hn, h.memory⟩
  cases he : s.encoded with
  | error t => exact ⟨_, exec_encode_error hr he⟩
  | ok e => exact ⟨_, exec_encode_finish hr he⟩

/-- The invariant shuts out the states in which a command would reach a cell that does not exist, and allowed tables are not
refused. -/
theorem State.Inv.exec_answers (h : s.Inv) (htables : s.params.tablesOk = true) (i : Instr) :
    ∃ t, exec i s = .next t := by
  cases ha : accepts i s with
  | false => exact exec_answers_of_not_accepted ha
  | true =>
    cases i with
    | nop | cfg => exact ⟨_, rfl⟩
    | illegal w => cases ha
    | lutWr len rgb w1 =>
      rw [exec_lutWr_accepted (accepts_lutWr_iff.mp ha)]
      exact h.spaces.writeLut_answers len rgb w1
    | lutDef =>
      obtain ⟨hp, hc⟩ := accepts_lutDef_iff.mp ha
      exact ⟨_, (exec_lutDef_accepted hp hc).trans (if_pos htables)⟩
    | fileWr b =>
      rw [exec_fileWr_accepted (accepts_fileWr_iff.mp ha)]
      exact h.spaces.writeFile_answers b
    | hdr =>
      rw [exec_hdr_accepted (accepts_hdr_iff.mp ha)]
      exact h.spaces.takeHeader_answers
    | classify => exact h.classify_answers (accepts_classify_iff.mp ha)
    | encode => exact h.encode_answers (accepts_encode_iff.mp ha)

/-- The accesses to come are no part of the invariant. -/
theorem State.Inv.withRequests (h : s.Inv) (rest : List HostAccess) : ({ s with requests := rest } : State).Inv where
  memory := h.memory
  spaces := { h.spaces with }
  phase := { h.phase with }
  image := { h.image with }
  index := { h.index with }
  warn := h.warn

theorem State.Inv.unlatch (h : s.Inv) : s.unlatch.Inv where
  memory := h.memory
  spaces := { h.spaces with }
  phase := { h.phase with latched := nofun }
  image := { h.image with }
  index := { h.index with }
  warn := h.warn

theorem State.Inv.deliver_answers (h : s.Inv) (htables : s.params.tablesOk = true) (w : Word) :
    ∃ t, deliver w s = .next t := by
  cases hw : s.awaitOperand with
  | true =>
    rw [deliver_operand hw]
    exact h.unlatch.exec_answers htables _
  | false =>
    by_cases h2 : w.toNat / 2 ^ 28 = 2
    · exact ⟨_, deliver_latch hw h2⟩
    · rw [deliver_command hw (decode_one h2)]
      exact h.exec_answers htables _

theorem State.Inv.serve_answers (h : s.Inv) (htables : s.params.tablesOk = true) (a : HostAccess) :
    ∃ t, serve a s = .next t := by
  cases a with
  | read | reset => exact ⟨_, rfl⟩
  | write off v =>
    by_cases h0 : off = 0
    · subst h0
      exact h.deliver_answers htables v
    · exact ⟨_, hostWrite_of_ne_zero v s h0⟩

end

/-- Settles O55: with no access waiting the engine idles, and it serves every access. -/
theorem stepNeverStops : Obligations.StepNeverStops := by
  intro s h htables
  cases hr : s.requests with
  | nil => exact ⟨s, by rw [step, serveNext, hr]⟩
  | cons a rest =>
    rw [step_request hr]
    exact (h.withRequests rest).serve_answers htables a

/-! ### Reset between accesses (R104) -/

/-- What a host read answers does not depend on the parameters or on the host's own lists. -/
theorem State.resetBlock_hostRead (s : State) (off : Word) : s.resetBlock.hostRead off = State.reset.hostRead off := rfl

/-- Settles O14: the block is the one after reset, of which every host read is 0. -/
theorem resetRequestRestores : Obligations.ResetRequestRestores := by
  intro s rest hr
  have hzero : ∀ off, State.reset.hostRead off = 0 := by
    obtain ⟨-, -, -, -, -, -, -, -, -, -, -, -, -, -, -, -, -, -, hzero⟩ := resetValues
    exact hzero
  exact ⟨_, step_request hr, rfl, rfl, rfl, rfl, rfl, rfl, rfl, rfl, rfl, rfl,
    fun off => (State.resetBlock_hostRead _ off).trans (hzero off)⟩

/-! ### The placed command -/

/-- A placed LUT_WR is its second word, written while its first word waits in the latch. -/
theorem step_placeCommand_lutWr {w0 : Word} (w1 : Word) (s : State) (h2 : opcodeOf w0 = 2) :
    step (s.placeCommand w0 w1) = exec (decodeCommand w0 w1) { s with awaitOperand := false, pending := w0 } := by
  have hcommand : decodeCommand w0 w1 = lutWrOf w0 w1 := by simp [decodeCommand, h2]
  rw [State.placeCommand, if_pos h2, step_cmd rfl, hcommand]
  exact deliver_operand rfl

theorem step_placeCommand_oneWord {w0 : Word} (w1 : Word) (s : State) (h2 : opcodeOf w0 ≠ 2) :
    step (s.placeCommand w0 w1) = exec (decodeCommand w0 w1) { s with awaitOperand := false } := by
  rw [State.placeCommand, if_neg h2, step_cmd rfl, decodeCommand_operand h2 w1 0]
  exact deliver_command rfl (decode_one (mt opcodeOf_eq_two.mpr h2))

/-- Settles O8: the latch holds the command's first word where the command is a LUT_WR, and what it held before elsewhere. -/
theorem placedCommandRuns : Obligations.PlacedCommandRuns := by
  intro s nbits w i hi
  rw [decodeTableWord_eq, Option.some.injEq] at hi
  subst hi
  by_cases h2 : opcodeOf (tableWords nbits w).1 = 2
  · exact ⟨_, step_placeCommand_lutWr _ s h2, .inr (decodeCommand_spec _ _).2.1.symm⟩
  · exact ⟨_, step_placeCommand_oneWord _ s h2, .inl rfl⟩

end Sys2Proof.Machine
end
